-- ==== Sys2Proof/Word.lean ====
section
/-! DEFINITION. Word.lean: the word types of the block (spec/00_scope.md R6, R9: every value is unsigned).

Bits are numbered from 0 at the least significant bit (00_scope.md R8), as `BitVec` numbers them. -/

namespace Sys2Proof

/-- An 8-bit byte of a frame or of a response (20_memory.md R40). -/
abbrev Byte := BitVec 8

/-- A 16-bit mask in logical order: bit `i` is relay `i + 1` (00_scope.md R12). -/
abbrev RelayMask := BitVec 16

/-- A 16-bit mask in the device's scrambled wire order (00_scope.md R12). -/
abbrev WireMask := BitVec 16

/-- The 32-bit request word on the port REQ (30_encoding.md R60). A port value, not a byte
sequence: no byte order applies to it (20_memory.md R41). -/
abbrev ReqWord := BitVec 32

end Sys2Proof
end

