-- ==== Sys2Proof/Syntax.lean ====
section
/-! DEFINITION. Syntax.lean: one constructor per row of spec/opcode_table.json.

ARG = REQ[31:16] is a field of every request operation, also where the operation ignores it
(30_encoding.md R62: any value is legal there), so that no bit of a request word is dropped. -/

namespace Sys2Proof

/-- The rows of the opcode table. The first six are the operations of 30_encoding.md R63; then the
three command codes of a frame's byte 0 (30_encoding.md R67) and the two pseudo-instructions
(30_encoding.md R78). -/
inductive Instr where
  /-- NOP (41_framecodec.md R108); `arg` is ignored. -/
  | nop (arg : BitVec 16)
  /-- TOWIRE (40_bitmapper.md R83). -/
  | towire (mask : RelayMask)
  /-- TOLOGICAL (40_bitmapper.md R84). -/
  | tological (mask : WireMask)
  /-- BUILDRD (41_framecodec.md R102); `arg` is ignored. -/
  | buildrd (arg : BitVec 16)
  /-- BUILDWR (41_framecodec.md R104). -/
  | buildwr (mask : RelayMask)
  /-- DECODE (41_framecodec.md R106), whose operand is the port RESP_IN; `arg` is ignored. -/
  | decode (arg : BitVec 16)
  /-- Frame command code READ, `0xD2` (30_encoding.md R67). -/
  | frameCmdRead
  /-- Frame command code WRITE, `0xC3` (30_encoding.md R67). -/
  | frameCmdWrite
  /-- Frame command code ERASE, `0x71` (30_encoding.md R67, 41_framecodec.md R109). -/
  | frameCmdErase
  /-- Pseudo-instruction ALLON: BUILDWR #0xFFFF (30_encoding.md R78). -/
  | allon
  /-- Pseudo-instruction ALLOFF: BUILDWR #0x0000 (30_encoding.md R78). -/
  | alloff
deriving DecidableEq, Repr

/-- The two encodings the spec defines (30_encoding.md, opening): a word of the request port, and
byte 0 of a command frame. -/
inductive Code where
  /-- Format REQ32 (30_encoding.md R60, R61). -/
  | req32 (word : ReqWord)
  /-- Format FRAME_CMD8, the `cmd` byte of a frame (30_encoding.md R66, R67). -/
  | frameCmd8 (cmd : Byte)
deriving DecidableEq, Repr

/-- The operation a pseudo-instruction expands to (30_encoding.md R78); every other instruction is
its own expansion. -/
def Instr.expand : Instr → Instr
  | .nop arg => .nop arg
  | .towire mask => .towire mask
  | .tological mask => .tological mask
  | .buildrd arg => .buildrd arg
  | .buildwr mask => .buildwr mask
  | .decode arg => .decode arg
  | .frameCmdRead => .frameCmdRead
  | .frameCmdWrite => .frameCmdWrite
  | .frameCmdErase => .frameCmdErase
  | .allon => .buildwr 0xFFFF#16
  | .alloff => .buildwr 0x0000#16

end Sys2Proof
end

