-- ==== Sys2Proof/WellFormed.lean ====
section
/-! DEFINITION. WellFormed.lean: which terms are the ones the decoder reads.

Every 16-bit operand is legal (30_encoding.md R62). The one check is canonical spelling: the words
0xFFFF0004 and 0x00000004 are rows of their own (ALLON and ALLOFF, 30_encoding.md R78), so BUILDWR
with the mask 0xFFFF or 0x0000 is spelled `allon` or `alloff`. Its meaning does not depend on the
spelling. Log entry 6. -/

namespace Sys2Proof

/-- A BUILDWR mask that has no row of its own in the opcode table. -/
def plainWriteMask (mask : RelayMask) : Bool :=
  mask != 0x0000#16 && mask != 0xFFFF#16

/-- The instruction is the spelling the decoder gives its encoding. -/
def Instr.wellFormed : Instr → Bool
  | .nop _ => true
  | .towire _ => true
  | .tological _ => true
  | .buildrd _ => true
  | .buildwr mask => plainWriteMask mask
  | .decode _ => true
  | .frameCmdRead => true
  | .frameCmdWrite => true
  | .frameCmdErase => true
  | .allon => true
  | .alloff => true

end Sys2Proof
end

