-- ==== Sys2Proof/Decode.lean ====
section
/-! DEFINITION. Decode.lean: the decoder and the encoder of the two encodings of
spec/30_encoding.md.

The decoder is total on every request word and on every frame command byte; what it does not read
as an instruction it rejects by name. A rejected request word is an illegal request: what the block
does with it is Machine/Ops.lean's `raiseIllegalRequest`. -/

namespace Sys2Proof

/-- Why a code is no instruction. -/
inductive DecodeReject where
  /-- `REQ[15:4] ≠ 0`, whatever OP is (30_encoding.md R64). -/
  | reservedBitsSet
  /-- `RSV = 0` and OP in `0x6` to `0xF` (30_encoding.md R64). -/
  | reservedOp (op : BitVec 4)
  /-- A frame command byte that is none of `0x71`, `0xD2`, `0xC3` (30_encoding.md R67, 93 I8). -/
  | unknownFrameCmd (cmd : Byte)
deriving DecidableEq, Repr

/-- `OP = REQ[3:0]` (30_encoding.md R61). -/
def reqOp (w : ReqWord) : BitVec 4 := w.extractLsb' 0 4

/-- `RSV = REQ[15:4]` (30_encoding.md R61). -/
def reqRsv (w : ReqWord) : BitVec 12 := w.extractLsb' 4 12

/-- `ARG = REQ[31:16]`, used as is (30_encoding.md R61, R62). -/
def reqArg (w : ReqWord) : BitVec 16 := w.extractLsb' 16 16

/-- BUILDWR of `mask`, under the name the opcode table gives its word (30_encoding.md R78). -/
def spellWrite (mask : RelayMask) : Instr :=
  if mask = 0xFFFF#16 then .allon else if mask = 0x0000#16 then .alloff else .buildwr mask

/-- The operation map of OP (30_encoding.md R63). -/
def decodeOp (op : BitVec 4) (arg : BitVec 16) : Except DecodeReject Instr :=
  match op.toNat with
  | 0 => .ok (.nop arg)
  | 1 => .ok (.towire arg)
  | 2 => .ok (.tological arg)
  | 3 => .ok (.buildrd arg)
  | 4 => .ok (spellWrite arg)
  | 5 => .ok (.decode arg)
  | _ => .error (.reservedOp op)

/-- Decode a request word (30_encoding.md R61 to R64). -/
def decodeReq (w : ReqWord) : Except DecodeReject Instr :=
  if reqRsv w = 0#12 then decodeOp (reqOp w) (reqArg w) else .error .reservedBitsSet

/-- Decode byte 0 of a command frame (30_encoding.md R67). -/
def decodeFrameCmd (cmd : Byte) : Except DecodeReject Instr :=
  match cmd.toNat with
  | 0xD2 => .ok .frameCmdRead
  | 0xC3 => .ok .frameCmdWrite
  | 0x71 => .ok .frameCmdErase
  | _ => .error (.unknownFrameCmd cmd)

/-- Decode either format. -/
def decode : Code → Except DecodeReject Instr
  | .req32 w => decodeReq w
  | .frameCmd8 cmd => decodeFrameCmd cmd

/-- A request word from its fields: `ARG ++ RSV ++ OP` with `RSV = 0` (30_encoding.md R61). -/
def reqWord (op : BitVec 4) (arg : BitVec 16) : ReqWord := (arg ++ 0#12) ++ op

/-- The encoding of an instruction (30_encoding.md R63, R67, R78, R79). -/
def encode : Instr → Code
  | .nop arg => .req32 (reqWord 0x0#4 arg)
  | .towire mask => .req32 (reqWord 0x1#4 mask)
  | .tological mask => .req32 (reqWord 0x2#4 mask)
  | .buildrd arg => .req32 (reqWord 0x3#4 arg)
  | .buildwr mask => .req32 (reqWord 0x4#4 mask)
  | .decode arg => .req32 (reqWord 0x5#4 arg)
  | .frameCmdRead => .frameCmd8 0xD2#8
  | .frameCmdWrite => .frameCmd8 0xC3#8
  | .frameCmdErase => .frameCmd8 0x71#8
  | .allon => .req32 0xFFFF0004#32
  | .alloff => .req32 0x00000004#32

/-- The length in bytes of a frame on the wire, told from its `cmd` byte: READ 64, WRITE 65; the
source gives no length for ERASE and names no other code (30_encoding.md R74). -/
def wireFrameLength (cmd : Byte) : Option Nat :=
  match cmd.toNat with
  | 0xD2 => some 64
  | 0xC3 => some 65
  | _ => none

/-- What the decoder reads from a row's word as spec/opcode_table.json numbers its bits: an 8-bit
row is a frame command byte (format FRAME_CMD8), any other row up to 32 bits a request word. -/
def decodeTableWord (nbits w : Nat) : Option Instr :=
  if 32 < nbits then none
  else if nbits = 8 then (decode (.frameCmd8 (BitVec.ofNat 8 w))).toOption
  else (decode (.req32 ((BitVec.ofNat nbits w).setWidth 32))).toOption

end Sys2Proof
end

