-- ==== Sys2Proof/Config.lean ====
section
/-! DEFINITION. Config.lean: what the spec leaves to the implementation, as constants without a
body, so that nothing in Lean can evaluate them and every statement holds for all their values
(spec/00_scope.md R7). The literals the spec fixes stand in Machine/FrameLayout.lean. -/

namespace Sys2Proof

/-- OPEN parameter `RELAYS_LUT` (00_scope.md R6, 92 D12), given as the permutation `p` of 10_state.md
R22 and R24: entry `i` is `1 << p(i)`. A permutation without a body is exactly a table meeting LutOK
whose values nothing knows. Log entry 3 (DEDUCED, safe). -/
opaque Config.relayPosition : Equiv.Perm (Fin 16)

/-- OPEN parameter `READ_CHECKSUM` (00_scope.md R6, 41_framecodec.md R103, 92 D13): a 32-bit
constant of which nothing is assumed. Log entry 4 (safe). -/
opaque Config.readChecksum : BitVec 32

/-- What the port RESP_IN carries at reset, by offset, before the host has supplied a response: a
free value. Log entry 2 (DESIGN CHOICE). -/
opaque Config.undrivenRespIn : Nat → Byte

end Sys2Proof
end

