-- ==== Sys2Proof/Machine/Lut.lean ====
section
/-! DEFINITION. Machine/Lut.lean: the lookup table `relays_lut` and the two mapping functions of the
BitMapper (spec/10_state.md R21 to R24; 40_bitmapper.md R80, R81).

A table that fails LutOK "does not exist" as a configuration (10_state.md R23), so a `Lut` carries
the check: an invalid table cannot be put into State, and `Lut` in a statement ranges over every
table that meets R22, as 00_scope.md R7 asks. -/

namespace Sys2Proof.Machine

/-- The candidate tables: 16 entries of 16 bits (10_state.md R21). -/
abbrev LutTable := Vector (BitVec 16) 16

/-- `f 0 | f 1 | … | f (n − 1)`, the `OR_{i=0..n−1}` of 00_scope.md R8. -/
def orUpTo (f : Nat → BitVec 16) : Nat → BitVec 16
  | 0 => 0#16
  | n + 1 => orUpTo f n ||| f n

/-- How many of the low `n` bits of `v` are set. -/
def countBits (v : BitVec 16) : Nat → Nat
  | 0 => 0
  | n + 1 => countBits v n + (v.getLsbD n).toNat

/-- The number of set bits of a 16-bit value. -/
def popcount (v : BitVec 16) : Nat := countBits v 16

/-- Entry `i` of a candidate table. Only indices 0 to 15 exist (90 C2) and only they are used. -/
def tableEntry (t : LutTable) (i : Nat) : BitVec 16 := t.toList.getD i 0#16

/-- The three conditions of 10_state.md R22. -/
def lutOk (t : LutTable) : Bool :=
  (List.range 16).all (fun i => popcount (tableEntry t i) == 1) &&
  (List.range 16).all (fun i => (List.range 16).all (fun j =>
    i == j || (tableEntry t i &&& tableEntry t j) == 0#16)) &&
  orUpTo (tableEntry t) 16 == 0xFFFF#16

/-- A lookup table the block can be configured with (10_state.md R21, R22, R23). -/
structure Lut where
  /-- `LUT[0]` to `LUT[15]`. -/
  entries : LutTable
  /-- The configuration check of 10_state.md R23. -/
  valid : lutOk entries = true
deriving DecidableEq, Repr

/-- `LUT[i]` (00_scope.md R10). -/
def lutEntry (lut : Lut) (i : Nat) : BitVec 16 := tableEntry lut.entries i

/-- The highest set bit below position `n`, and 0 if there is none. -/
def bitIndex (v : BitVec 16) : Nat → Nat
  | 0 => 0
  | n + 1 => if v.getLsbD n then n else bitIndex v n

/-- `p(i)`: the bit position with `LUT[i] = 1 << p(i)` (10_state.md R24). -/
def wirePosition (lut : Lut) (i : Nat) : Nat := bitIndex (lutEntry lut i) 16

/-- `toWire(m)` (40_bitmapper.md R80). -/
def toWire (lut : Lut) (m : RelayMask) : WireMask :=
  orUpTo (fun i => if m.getLsbD i then lutEntry lut i else 0#16) 16

/-- `toLogical(w)` (40_bitmapper.md R81). -/
def toLogical (lut : Lut) (w : WireMask) : RelayMask :=
  orUpTo (fun i => if w &&& lutEntry lut i = lutEntry lut i then 1#16 <<< i else 0#16) 16

/-- The table of a permutation of the 16 positions: entry `i` is `1 << p(i)` (10_state.md R22). -/
def tableOfPositions (p : Equiv.Perm (Fin 16)) : LutTable :=
  Vector.ofFn fun i => 1#16 <<< (p i).val

theorem tableEntry_tableOfPositions (p : Equiv.Perm (Fin 16)) (i : Fin 16) :
    tableEntry (tableOfPositions p) i.val = 1#16 <<< (p i).val := by
  simp [tableEntry, tableOfPositions, List.getD_eq_getElem?_getD]

theorem getLsbD_orUpTo (f : Nat → BitVec 16) (n k : Nat) :
    (orUpTo f n).getLsbD k = true ↔ ∃ i < n, (f i).getLsbD k = true := by
  induction n with
  | zero => simp [orUpTo]
  | succ n ih =>
    simp only [orUpTo, BitVec.getLsbD_or, Bool.or_eq_true, ih]
    constructor
    · rintro (⟨i, hi, h⟩ | h)
      · exact ⟨i, by omega, h⟩
      · exact ⟨n, by omega, h⟩
    · rintro ⟨i, hi, h⟩
      obtain rfl | hlt := Nat.eq_or_lt_of_le (Nat.lt_succ_iff.mp hi)
      · exact .inr h
      · exact .inl ⟨i, hlt, h⟩

theorem popcount_shift_one : ∀ k : Fin 16, popcount (1#16 <<< k.val) = 1 := by decide

theorem shift_one_disjoint :
    ∀ j k : Fin 16, j ≠ k → (1#16 <<< j.val) &&& (1#16 <<< k.val) = 0#16 := by decide

theorem getLsbD_shift_one : ∀ k : Fin 16, (1#16 <<< k.val).getLsbD k.val = true := by decide

/-- The table of any permutation meets LutOK (10_state.md R22: the equivalence's direction that the
configuration needs). -/
theorem lutOk_tableOfPositions (p : Equiv.Perm (Fin 16)) : lutOk (tableOfPositions p) = true := by
  simp only [lutOk, Bool.and_eq_true, List.all_eq_true, List.mem_range, Bool.or_eq_true, beq_iff_eq]
  refine ⟨⟨fun i hi => ?_, fun i hi j hj => ?_⟩, ?_⟩
  · rw [tableEntry_tableOfPositions p ⟨i, hi⟩]
    exact popcount_shift_one _
  · by_cases hij : i = j
    · exact .inl hij
    · right
      rw [tableEntry_tableOfPositions p ⟨i, hi⟩, tableEntry_tableOfPositions p ⟨j, hj⟩]
      exact shift_one_disjoint _ _ fun h => hij (by simpa using congrArg Fin.val (p.injective h))
  · refine BitVec.eq_of_getLsbD_eq fun k hk => ?_
    have hset : (orUpTo (tableEntry (tableOfPositions p)) 16).getLsbD k = true := by
      rw [getLsbD_orUpTo]
      refine ⟨(p.symm ⟨k, hk⟩).val, (p.symm ⟨k, hk⟩).isLt, ?_⟩
      rw [tableEntry_tableOfPositions p, Equiv.apply_symm_apply]
      exact getLsbD_shift_one ⟨k, hk⟩
    rw [hset]
    interval_cases k <;> rfl

/-- The OPEN parameter `RELAYS_LUT` (00_scope.md R6): a table of which only LutOK is known. -/
def relaysLut : Lut := ⟨tableOfPositions Config.relayPosition, lutOk_tableOfPositions _⟩

end Sys2Proof.Machine
end

