-- ==== Sys2Proof/Machine/FrameLayout.lean ====
section
/-! DEFINITION. Machine/FrameLayout.lean: the layout and the literals of a command frame
(spec/00_scope.md R6; 30_encoding.md R65 to R74).

"Explicit byte-offset serialization ... with named constants for every offset and width"
(00_scope.md R11). The literals are the spec's as written (93 I7). Log entry 11. -/

namespace Sys2Proof.Machine

/-- `CMD_READ` (00_scope.md R6). -/
def cmdRead : Byte := 0xD2#8

/-- `CMD_WRITE` (00_scope.md R6). -/
def cmdWrite : Byte := 0xC3#8

/-- `STRUCT_SIZE`: the structure is the 18 bytes at offsets 0 to 17 (00_scope.md R6, 30_encoding.md
R65). -/
def structSize : Nat := 18

/-- `LEN_VALUE = STRUCT_SIZE − 4`, the offset of `checksum` (30_encoding.md R68; 90 C1; 92 D23). -/
def lenValue : Nat := structSize - 4

/-- `PROBE_SENTINEL` (00_scope.md R6). -/
def probeSentinel : BitVec 16 := 0x1111#16

/-- `SIGNATURE` (00_scope.md R6, 30_encoding.md R71). -/
def signature : BitVec 32 := 0x43444948#32

/-- `READ_FRAME_SIZE`, as FSIZE holds it (00_scope.md R6, 10_state.md R26). -/
def readFrameSize : BitVec 7 := 64#7

/-- `WRITE_FRAME_SIZE`, as FSIZE holds it (00_scope.md R6, 10_state.md R26). -/
def writeFrameSize : BitVec 7 := 65#7

/-- `PAD_BYTE` (30_encoding.md R73, 92 D8). -/
def padByte : Byte := 0x00#8

/-- The size of the buffer FRAME: offsets 0 to 64 (10_state.md R25). -/
def frameBytes : Nat := 65

/-- The fields of the structure (30_encoding.md R66). -/
inductive FrameField where
  | cmd | len | reg | rsv0 | rsv1 | rsv2 | signature | checksum
deriving DecidableEq, Repr

/-- Where a field starts (30_encoding.md R66). -/
def fieldOffset : FrameField → Nat
  | .cmd => 0
  | .len => 1
  | .reg => 2
  | .rsv0 => 4
  | .rsv1 => 6
  | .rsv2 => 8
  | .signature => 10
  | .checksum => 14

/-- How many bytes a field has (20_memory.md R45, 30_encoding.md R66). -/
def fieldSize : FrameField → Nat
  | .cmd => 1
  | .len => 1
  | .reg => 2
  | .rsv0 => 2
  | .rsv1 => 2
  | .rsv2 => 2
  | .signature => 4
  | .checksum => 4

end Sys2Proof.Machine
end

