-- ==== Sys2Proof/Machine/Memory.lean ====
section
/-! DEFINITION. Machine/Memory.lean: the buffer FRAME as plain data (spec/10_state.md R25;
20_memory.md R40): a list of (offset, byte) pairs in one canonical form.

An offset that is not listed reads as 0x00, the byte that 70_reset_and_hazards.md R150 gives every
offset at reset. Offsets 0 to 64 exist and no others. Log entry 8. -/

namespace Sys2Proof.Machine

/-- The contents of FRAME: offsets strictly rising, no pair with the byte that an unlisted offset
reads as. -/
abbrev Memory := List Host.Cell

/-- What an unlisted offset reads as: the reset contents (70_reset_and_hazards.md R150). -/
def unlistedByte : Byte := 0x00#8

/-- Read one byte. -/
def readByte : Memory → Nat → Byte
  | [], _ => unlistedByte
  | (a, b) :: m, x => if a = x then b else readByte m x

/-- The pair for `b` at `a`, or nothing where `b` is what an unlisted offset reads as. -/
def cellFor (a : Nat) (b : Byte) : Memory := if b = unlistedByte then [] else [(a, b)]

/-- The pairs of `m` whose offset is not `x`. -/
def dropOffset : Memory → Nat → Memory
  | [], _ => []
  | (a, b) :: m, x => if a = x then dropOffset m x else (a, b) :: dropOffset m x

/-- Put byte `b` at offset `x`, keeping the canonical form. -/
def putByte : Memory → Nat → Byte → Memory
  | [], x, b => cellFor x b
  | (a, c) :: m, x, b =>
    if a < x then (a, c) :: putByte m x b
    else if a = x then putByte m x b
    else cellFor x b ++ (a, c) :: dropOffset m x

/-- `FRAME[x] <- b`. An offset outside 0 to 64 does not exist and stores nothing; no operation of the
block uses one (20_memory.md R44). -/
def writeByte (m : Memory) (x : Nat) (b : Byte) : Memory :=
  if x < frameBytes then putByte m x b else m

/-- `MemWrite(FRAME, a, n, v)`: `FRAME[a + k] <- v[8k+7 : 8k]` for `k = 0 .. n−1`, little-endian
(20_memory.md R42). -/
def memWrite (m : Memory) (a : Nat) : Nat → BitVec 32 → Memory
  | 0, _ => m
  | n + 1, v => writeByte (memWrite m a n v) (a + n) (v.extractLsb' (8 * n) 8)

/-- `for k in 0..n−1: FRAME[k] <- b`. -/
def fillBytes (m : Memory) (b : Byte) : Nat → Memory
  | 0 => m
  | n + 1 => writeByte (fillBytes m b n) n b

/-- Offsets rise strictly from `lo` on, exist, and carry no byte that an unlisted offset reads as. -/
def canonicalFrom : Nat → Memory → Bool
  | _, [] => true
  | lo, (a, b) :: m => decide (lo ≤ a) && decide (a < frameBytes) && b != unlistedByte && canonicalFrom (a + 1) m

/-- The canonical form of a memory. -/
def Memory.wf (m : Memory) : Bool := canonicalFrom 0 m

end Sys2Proof.Machine
end

