-- ==== Sys2Proof/Machine/State.lean ====
section
/-! DEFINITION. Machine/State.lean: the state of the block (spec/10_state.md R20), the host events
that a step performs (60_exceptions.md R138), the reasons a step can stop, and reset
(70_reset_and_hazards.md R150). -/

namespace Sys2Proof.Machine

/-- One interaction of the host with the block: the rows of 60_exceptions.md R138, the reset event of
70_reset_and_hazards.md R150, and a second host (20_memory.md R51). One step performs one event. -/
inductive HostEvent where
  /-- Issue a request: the host presents this word on REQ (10_state.md R32). -/
  | request (req : ReqWord)
  /-- Supply a response: the host drives these bytes on RESP_IN[0..63] (10_state.md R32). -/
  | supplyResponse (bytes : Vector Byte 64)
  /-- Take a frame: the host reads FRAME[0..FSIZE−1]. -/
  | takeFrame
  /-- The host reads one byte of FRAME (20_memory.md R40). -/
  | readFrameByte (offset : Nat)
  /-- Take a mask: the host reads MOUT. -/
  | takeMask
  /-- The host reads SR (10_state.md R30). -/
  | readStatus
  /-- The reset event; it is no request (70_reset_and_hazards.md R150). -/
  | reset
  /-- A second host accesses the block (20_memory.md R51). -/
  | secondHost
deriving DecidableEq, Repr

/-- The whole state. The first six fields are the spec's inventory (10_state.md R20: "exactly the
following"); `respIn` and `script` are the model's own and stand for the input ports and the host. -/
@[ext]
structure State where
  /-- `LUT[0..15]`, read-only configuration (10_state.md R21). -/
  lut : Lut
  /-- `FRAME[0..64]` (10_state.md R25). -/
  frame : Memory
  /-- `FSIZE` (10_state.md R26). -/
  fsize : BitVec 7
  /-- `MOUT` (10_state.md R27). -/
  mout : BitVec 16
  /-- `MVALID` (10_state.md R28). -/
  mvalid : Bool
  /-- `ILL` (10_state.md R29). -/
  ill : Bool
  /-- The level on the input port RESP_IN (10_state.md R32; 70_reset_and_hazards.md R155). The model's
  own field, log entry 2. -/
  respIn : Vector Byte 64
  /-- What the host does from now on, in order (20_memory.md R49; 60_exceptions.md R140). The model's
  own field, log entry 1. -/
  script : List HostEvent
deriving DecidableEq, Repr

/-- Why a step stops. All are reads by the host; no request faults (60_exceptions.md R130). -/
inductive Fault where
  /-- The host read MOUT while MVALID = 0 (10_state.md R28). Raised by `hostReadMask`. Safe. -/
  | maskNotValid
  /-- The host read FRAME while FSIZE = 0 (10_state.md R25). Raised by `hostReadFrameByte` and
  `hostTakeFrame`. Safe. -/
  | frameNotBuilt
  /-- The host read an offset of FRAME that does not exist (20_memory.md R40). Raised by
  `hostReadFrameByte`. Safe. -/
  | noSuchFrameOffset (offset : Nat)
deriving DecidableEq, Repr

/-- What the model gives no meaning to. -/
inductive Refusal where
  /-- An opcode-table row without a meaning; no arm of `exec` is left with it. Safe. -/
  | notModelled (mnemonic : String)
  /-- A configuration whose table fails LutOK (10_state.md R23). Raised by `powerOn`. Safe. -/
  | lutNotOk
  /-- Two hosts share one block (20_memory.md R51, 93 I4). Raised by `performEvent`. Safe. -/
  | secondHost
deriving DecidableEq, Repr

/-- The port RESP_IN before the host has driven it: free bytes. Log entry 2 (DESIGN CHOICE). -/
def undrivenPort : Vector Byte 64 := Vector.ofFn fun i => Config.undrivenRespIn i.val

/-- The block after reset (10_state.md R20; 70_reset_and_hazards.md R150), configured with
`RELAYS_LUT`, with nothing asked of it yet. -/
def State.reset : State where
  lut := relaysLut
  frame := []
  fsize := 0#7
  mout := 0x0000#16
  mvalid := false
  ill := false
  respIn := undrivenPort
  script := []

end Sys2Proof.Machine
end

