-- ==== Sys2Proof/Machine/Flags.lean ====
section
/-! DEFINITION. Machine/Flags.lean: the two status bits, FSIZE's place beside them, and the status
word SR (spec/10_state.md R28, R29, R30). -/

namespace Sys2Proof.Machine

/-- `ILL <- b` (10_state.md R29). -/
def setIll (b : Bool) (s : State) : State := { s with ill := b }

/-- `MVALID <- 1` (10_state.md R28). -/
def setMvalid (s : State) : State := { s with mvalid := true }

/-- `SR = zext_32(FSIZE ++ 0b000000 ++ MVALID ++ ILL)` (10_state.md R30). -/
def statusWord (s : State) : BitVec 32 :=
  (s.fsize ++ 0#6 ++ BitVec.ofBool s.mvalid ++ BitVec.ofBool s.ill).setWidth 32

end Sys2Proof.Machine
end

