-- ==== Sys2Proof/Machine/Operands.lean ====
section
/-! DEFINITION. Machine/Operands.lean: where an operation's operand comes from (spec/10_state.md R31,
R32; 30_encoding.md R62, R76).

ARG is a field of the instruction, read as a RelayMask or a WireMask as is. The one other operand is
the port RESP_IN, of which DECODE reads `reg`. -/

namespace Sys2Proof.Machine

/-- `RESP_IN[x]`. Offsets 0 to 63 exist and only 2 and 3 are ever read (20_memory.md R40). -/
def respByte (resp : Vector Byte 64) (x : Nat) : Byte := resp.toList.getD x 0x00#8

/-- `MemRead(RESP, a, n)`: `RESP_IN[a+n−1] ++ … ++ RESP_IN[a]`, little-endian, widened with zeros to
32 bits (20_memory.md R43). -/
def memRead (resp : Vector Byte 64) (a : Nat) : Nat → BitVec 32
  | 0 => 0#32
  | n + 1 => ((respByte resp (a + n)).setWidth 32 <<< (8 * n)) ||| memRead resp a n

/-- The WireMask `reg` of the response, at offsets 2 and 3 (30_encoding.md R76; 41_framecodec.md
R106). -/
def responseReg (resp : Vector Byte 64) : WireMask :=
  (memRead resp (fieldOffset .reg) (fieldSize .reg)).setWidth 16

end Sys2Proof.Machine
end

