-- ==== Sys2Proof/Machine/Ops.lean ====
section
/-! DEFINITION. Machine/Ops.lean: the shared operations: the frame builders and the checksum, what a
completed request writes, the block's one exceptional event, reset and configuration. -/

namespace Sys2Proof.Machine

/-- Write one field of the structure at its offset, little-endian (30_encoding.md R66; 20_memory.md
R42). -/
def putField (m : Memory) (f : FrameField) (v : BitVec 32) : Memory :=
  memWrite m (fieldOffset f) (fieldSize f) v

/-- `Σ_{k=0}^{n−1} F[k]`, each byte an unsigned integer (41_framecodec.md R100). -/
def sumBytes (m : Memory) : Nat → Nat
  | 0 => 0
  | n + 1 => sumBytes m n + (readByte m n).toNat

/-- `Csum(F)`: the sum of the first `LEN_VALUE` bytes, modulo 2^32 (41_framecodec.md R100). -/
def csum (m : Memory) : BitVec 32 := BitVec.ofNat 32 (sumBytes m lenValue)

/-- The frame memory after the FRAME writes of BUILDRD (41_framecodec.md R102, R103). -/
@[irreducible]
def buildReadFrame (m : Memory) : Memory :=
  let m := fillBytes m padByte frameBytes
  let m := putField m .cmd (cmdRead.setWidth 32)
  let m := putField m .len (BitVec.ofNat 32 lenValue)
  let m := putField m .reg (probeSentinel.setWidth 32)
  let m := putField m .rsv0 (probeSentinel.setWidth 32)
  let m := putField m .rsv1 (probeSentinel.setWidth 32)
  let m := putField m .rsv2 (probeSentinel.setWidth 32)
  let m := putField m .signature signature
  putField m .checksum Config.readChecksum

/-- The frame memory after BUILDWR's writes up to `signature`: "the frame-so-far", with `w` the
WireMask (41_framecodec.md R104, R105). -/
def writeFrameSoFar (m : Memory) (w : WireMask) : Memory :=
  let m := fillBytes m padByte frameBytes
  let m := putField m .cmd (cmdWrite.setWidth 32)
  let m := putField m .len (BitVec.ofNat 32 lenValue)
  let m := putField m .reg (w.setWidth 32)
  let m := putField m .rsv0 0#32
  let m := putField m .rsv1 0#32
  let m := putField m .rsv2 0#32
  putField m .signature signature

/-- The frame memory after all FRAME writes of BUILDWR: the checksum is computed over the
frame-so-far and stored last (41_framecodec.md R104, R105). -/
@[irreducible]
def buildWriteFrame (m : Memory) (w : WireMask) : Memory :=
  let soFar := writeFrameSoFar m w
  putField soFar .checksum (csum soFar)

/-- A mask operation completes: `MOUT <- v; MVALID <- 1; ILL <- 0` (40_bitmapper.md R83, R84;
41_framecodec.md R106). -/
def completeMask (v : BitVec 16) (s : State) : State :=
  setIll false (setMvalid { s with mout := v })

/-- A build completes: FRAME and FSIZE hold the frame, `ILL <- 0` (41_framecodec.md R102, R104). -/
def completeFrame (m : Memory) (size : BitVec 7) (s : State) : State :=
  setIll false { s with frame := m, fsize := size }

/-- BUILDWR for a RelayMask, shared by BUILDWR and its two other names (41_framecodec.md R104;
30_encoding.md R78). -/
def performWrite (mask : RelayMask) (s : State) : State :=
  completeFrame (buildWriteFrame s.frame (toWire s.lut mask)) writeFrameSize s

/-- `raise IllegalRequest(req)`, the block's only exceptional event: `ILL <- 1` and no other effect
(60_exceptions.md R131). Nothing is saved (no cause, no word, no address), there is no handler and
no return: the next request is accepted normally (R131, R134). -/
def raiseIllegalRequest (s : State) : State := setIll true s

/-- The reset event: every register takes its reset value; LUT is neither read nor changed
(70_reset_and_hazards.md R150). RESP_IN is driven by the host and keeps its level, and what the host
does next is the host's. -/
def resetRegisters (s : State) : State :=
  { s with frame := [], fsize := 0#7, mout := 0x0000#16, mvalid := false, ill := false }

/-- The host drives RESP_IN (60_exceptions.md R138; 70_reset_and_hazards.md R155). -/
def driveResponse (bytes : Vector Byte 64) (s : State) : State := { s with respIn := bytes }

/-- Configure a block with a candidate table: it exists after reset where LutOK holds, and the
configuration is refused where it does not (10_state.md R23; 70_reset_and_hazards.md R152). -/
def powerOn (table : LutTable) : Host.Outcome State Fault Refusal :=
  if h : lutOk table = true then .next { State.reset with lut := ⟨table, h⟩ }
  else .refused .lutNotOk

end Sys2Proof.Machine
end

