-- ==== Sys2Proof/Machine/BitMapper.lean ====
section
/-! DEFINITION. Machine/BitMapper.lean: TOWIRE and TOLOGICAL (spec/40_bitmapper.md). -/

namespace Sys2Proof.Machine

/-- TOWIRE: map a RelayMask to a WireMask (40_bitmapper.md R83). -/
def execTowire (mask : RelayMask) (s : State) : Host.Outcome State Fault Refusal :=
  .next (completeMask (toWire s.lut mask) s)

/-- TOLOGICAL: map a WireMask to a RelayMask (40_bitmapper.md R84). -/
def execTological (mask : WireMask) (s : State) : Host.Outcome State Fault Refusal :=
  .next (completeMask (toLogical s.lut mask) s)

end Sys2Proof.Machine
end

