-- ==== Sys2Proof/Machine/FrameCodec.lean ====
section
/-! DEFINITION. Machine/FrameCodec.lean: NOP, BUILDRD, BUILDWR, DECODE (spec/41_framecodec.md) and
the pseudo-instructions ALLON and ALLOFF (30_encoding.md R78). -/

namespace Sys2Proof.Machine

/-- NOP: `ILL <- 0`; ARG is ignored (41_framecodec.md R108). -/
def execNop (_arg : BitVec 16) (s : State) : Host.Outcome State Fault Refusal :=
  .next (setIll false s)

/-- BUILDRD: build a read-state frame; ARG is ignored (41_framecodec.md R102). -/
def execBuildrd (_arg : BitVec 16) (s : State) : Host.Outcome State Fault Refusal :=
  .next (completeFrame (buildReadFrame s.frame) readFrameSize s)

/-- BUILDWR: build a write-state frame for a RelayMask (41_framecodec.md R104). -/
def execBuildwr (mask : RelayMask) (s : State) : Host.Outcome State Fault Refusal :=
  .next (performWrite mask s)

/-- DECODE: the mask of a read response, without any validation; ARG is ignored (41_framecodec.md
R106, R107). -/
def execDecode (_arg : BitVec 16) (s : State) : Host.Outcome State Fault Refusal :=
  .next (completeMask (toLogical s.lut (responseReg s.respIn)) s)

/-- ALLON: BUILDWR #0xFFFF (30_encoding.md R78). -/
def execAllon (s : State) : Host.Outcome State Fault Refusal :=
  .next (performWrite 0xFFFF#16 s)

/-- ALLOFF: BUILDWR #0x0000 (30_encoding.md R78). -/
def execAlloff (s : State) : Host.Outcome State Fault Refusal :=
  .next (performWrite 0x0000#16 s)

end Sys2Proof.Machine
end

