-- ==== Sys2Proof/Machine/FrameCommand.lean ====
section
/-! DEFINITION. Machine/FrameCommand.lean: the frame command codes of the opcode table, given to the
block.

The codes are byte 0 of frames that the block writes and the device receives (spec/30_encoding.md
R67). The block itself has six operations (R63) and one input for them, the port REQ, and every
request word is one of the six or illegal (R64). A word whose low byte is 0xD2, 0xC3 or 0x71 has
`REQ[7:4] ≠ 0`, so it is illegal whatever its other bits are; 41_framecodec.md R109 says so of ERASE
("any OP value meant for it is reserved and illegal"). So each of the three raises IllegalRequest.
That READ and WRITE are emitted by BUILDRD and BUILDWR stands in their meanings; what the device does
with a frame is out of scope (00_scope.md R5). Log entry 5. -/

namespace Sys2Proof.Machine

/-- Frame command READ given to the block: an illegal request (30_encoding.md R64; 60_exceptions.md
R131). -/
def execFrameCmdRead (s : State) : Host.Outcome State Fault Refusal :=
  .next (raiseIllegalRequest s)

/-- Frame command WRITE given to the block: an illegal request (30_encoding.md R64; 60_exceptions.md
R131). -/
def execFrameCmdWrite (s : State) : Host.Outcome State Fault Refusal :=
  .next (raiseIllegalRequest s)

/-- Frame command ERASE given to the block: an illegal request (41_framecodec.md R109; 30_encoding.md
R64; 60_exceptions.md R131). -/
def execFrameCmdErase (s : State) : Host.Outcome State Fault Refusal :=
  .next (raiseIllegalRequest s)

end Sys2Proof.Machine
end

