-- ==== Sys2Proof/Machine/Dispatch.lean ====
section
/-! DEFINITION. Machine/Dispatch.lean: one arm per constructor of Instr, each one call of its meaning. -/

namespace Sys2Proof.Machine

def exec (i : Instr) (s : State) : Host.Outcome State Fault Refusal :=
  match i with
  -- the operations of 30_encoding.md R63
  | .nop arg => Sys2Proof.Machine.execNop arg s
  | .towire mask => Sys2Proof.Machine.execTowire mask s
  | .tological mask => Sys2Proof.Machine.execTological mask s
  | .buildrd arg => Sys2Proof.Machine.execBuildrd arg s
  | .buildwr mask => Sys2Proof.Machine.execBuildwr mask s
  | .decode arg => Sys2Proof.Machine.execDecode arg s
  -- the frame command codes of 30_encoding.md R67
  | .frameCmdRead => Sys2Proof.Machine.execFrameCmdRead s
  | .frameCmdWrite => Sys2Proof.Machine.execFrameCmdWrite s
  | .frameCmdErase => Sys2Proof.Machine.execFrameCmdErase s
  -- the pseudo-instructions of 30_encoding.md R78
  | .allon => Sys2Proof.Machine.execAllon s
  | .alloff => Sys2Proof.Machine.execAlloff s

end Sys2Proof.Machine
end

