-- ==== Sys2Proof/Machine/HostPort.lean ====
section
/-! DEFINITION. Machine/HostPort.lean: the host's interactions with the block (spec/60_exceptions.md
R138; 20_memory.md R46 to R51; 70_reset_and_hazards.md R150): what each host event does, and what a
host read gives. -/

namespace Sys2Proof.Machine

/-- The host reads MOUT: a fault while MVALID = 0 (10_state.md R28). -/
def hostReadMask (s : State) : Except Fault (BitVec 16) :=
  if s.mvalid then .ok s.mout else .error .maskNotValid

/-- The host reads one byte of FRAME: a fault while FSIZE = 0 (10_state.md R25), and where the offset
does not exist (20_memory.md R40). -/
def hostReadFrameByte (s : State) (offset : Nat) : Except Fault Byte :=
  if s.fsize = 0#7 then .error .frameNotBuilt
  else if offset < frameBytes then .ok (readByte s.frame offset)
  else .error (.noSuchFrameOffset offset)

/-- The host takes the frame it is to transmit, `FRAME[0..FSIZE−1]` (60_exceptions.md R138): a fault
while FSIZE = 0 (10_state.md R25). -/
def hostTakeFrame (s : State) : Except Fault (List Byte) :=
  if s.fsize = 0#7 then .error .frameNotBuilt
  else .ok ((List.range s.fsize.toNat).map (readByte s.frame))

/-- The host reads SR; a read of SR never faults (10_state.md R30). -/
def hostReadStatus (s : State) : BitVec 32 := statusWord s

/-- A host read leaves the block as it is (20_memory.md R47); a read the spec makes a fault stops. -/
def afterRead {α : Type} (r : Except Fault α) (s : State) : Host.Outcome State Fault Refusal :=
  match r with
  | .ok _ => .next s
  | .error f => .fault f

/-- A request, as one atomic step: a legal word runs its operation, an illegal one raises
IllegalRequest (30_encoding.md R64; 60_exceptions.md R130, R131). -/
def performRequest (req : ReqWord) (s : State) : Host.Outcome State Fault Refusal :=
  match decode (.req32 req) with
  | .ok i => exec i s
  | .error _ => .next (raiseIllegalRequest s)

/-- What one host event does. -/
def performEvent (e : HostEvent) (s : State) : Host.Outcome State Fault Refusal :=
  match e with
  | .request req => performRequest req s
  | .supplyResponse bytes => .next (driveResponse bytes s)
  | .takeFrame => afterRead (hostTakeFrame s) s
  | .readFrameByte offset => afterRead (hostReadFrameByte s offset) s
  | .takeMask => afterRead (hostReadMask s) s
  | .readStatus => .next s
  | .reset => .next (resetRegisters s)
  | .secondHost => .refused .secondHost

/-- Perform the host's next event; with none left the block does nothing (60_exceptions.md R140; log
entry 1). -/
def performNext (s : State) : Host.Outcome State Fault Refusal :=
  match s.script with
  | [] => .next s
  | e :: rest => performEvent e { s with script := rest }

/-- The host presents this word on REQ before anything else it does. -/
def presentRequest (req : ReqWord) (s : State) : State :=
  { s with script := .request req :: s.script }

end Sys2Proof.Machine
end

