-- ==== Sys2Proof/Machine/Step.lean ====
section
/-! DEFINITION. Machine/Step.lean: one step of the block: one host event, performed whole
(spec/20_memory.md R46, R49). -/

namespace Sys2Proof.Machine

/-- One step. -/
def step (s : State) : Host.Outcome State Fault Refusal := performNext s

/-- The block with the host about to issue this word as a request; the bits above `nbits` are zero.
The block loads no program: a request word is its instruction, and the host presents it. Log entry
7. -/
def State.withFetchWord (s : State) (nbits w : Nat) : State :=
  presentRequest ((BitVec.ofNat nbits w).setWidth 32) s

end Sys2Proof.Machine
end

