-- ==== Sys2Proof/Safety.lean ====
section
/-! DEFINITION. Safety.lean: the terms the statements use: which request words are illegal, the byte
images of the two frames as spec/30_encoding.md writes them, and the block's invariant. They are
written from the spec beside the model, not by its operations. -/

namespace Sys2Proof.Machine

/-- OP is in `0x6` to `0xF`, or RSV is not zero (30_encoding.md R64; 60_exceptions.md R132). -/
def illegalWord (w : ReqWord) : Bool :=
  decide (6 ≤ (w.extractLsb' 0 4).toNat) || w.extractLsb' 4 12 != 0#12

/-- The structure of a read frame, byte by byte; `cs` is READ_CHECKSUM (30_encoding.md R75). -/
def readFrameImage (cs : BitVec 32) : List Byte :=
  [0xD2#8, 0x0E#8, 0x11#8, 0x11#8, 0x11#8, 0x11#8, 0x11#8, 0x11#8, 0x11#8, 0x11#8,
   0x48#8, 0x49#8, 0x44#8, 0x43#8,
   cs.extractLsb' 0 8, cs.extractLsb' 8 8, cs.extractLsb' 16 8, cs.extractLsb' 24 8]

/-- The checksum of a write frame with the WireMask `w` (41_framecodec.md R101: 489 and the two bytes
of `w`). -/
def wireChecksum (w : WireMask) : BitVec 32 :=
  BitVec.ofNat 32 (489 + (w.extractLsb' 0 8).toNat + (w.extractLsb' 8 8).toNat)

/-- The structure of a write frame, byte by byte; `w` is the WireMask (30_encoding.md R75). -/
def writeFrameImage (w : WireMask) : List Byte :=
  [0xC3#8, 0x0E#8, w.extractLsb' 0 8, w.extractLsb' 8 8, 0x00#8, 0x00#8, 0x00#8, 0x00#8, 0x00#8, 0x00#8,
   0x48#8, 0x49#8, 0x44#8, 0x43#8,
   (wireChecksum w).extractLsb' 0 8, (wireChecksum w).extractLsb' 8 8,
   (wireChecksum w).extractLsb' 16 8, (wireChecksum w).extractLsb' 24 8]

/-- FRAME[0..64] holds this image, and 0x00 at every offset past its end (30_encoding.md R66, R73). -/
def frameShows (m : Memory) (image : List Byte) : Prop :=
  ∀ x < 65, readByte m x = image.getD x 0x00#8

/-- FSIZE and FRAME agree: no frame built and all zero, or a whole read frame, or a whole write frame
of some mask (10_state.md R25, R26; 20_memory.md R46). -/
def State.frameOk (s : State) : Prop :=
  (s.fsize = 0#7 ∧ frameShows s.frame []) ∨
  (s.fsize = 64#7 ∧ frameShows s.frame (readFrameImage Config.readChecksum)) ∨
  (s.fsize = 65#7 ∧ ∃ mask : RelayMask, frameShows s.frame (writeFrameImage (toWire s.lut mask)))

/-- The block's invariant: FRAME is in canonical form, FSIZE and FRAME agree, and MOUT holds its
reset value until a mask operation has written it (10_state.md R25 to R28). -/
def State.Inv (s : State) : Prop :=
  s.frame.wf = true ∧ s.frameOk ∧ (s.mvalid = false → s.mout = 0x0000#16)

/-- The operations that write MOUT and MVALID (10_state.md R20, R27, R28). -/
def isMaskOp : Instr → Bool
  | .towire _ => true
  | .tological _ => true
  | .decode _ => true
  | .nop _ => false
  | .buildrd _ => false
  | .buildwr _ => false
  | .frameCmdRead => false
  | .frameCmdWrite => false
  | .frameCmdErase => false
  | .allon => false
  | .alloff => false

/-- The operations that write FRAME and FSIZE (10_state.md R20, R25, R26). -/
def isBuildOp : Instr → Bool
  | .buildrd _ => true
  | .buildwr _ => true
  | .allon => true
  | .alloff => true
  | .nop _ => false
  | .towire _ => false
  | .tological _ => false
  | .decode _ => false
  | .frameCmdRead => false
  | .frameCmdWrite => false
  | .frameCmdErase => false

/-- The events by which the host reads the block (60_exceptions.md R138). -/
def isHostRead : HostEvent → Bool
  | .takeFrame => true
  | .readFrameByte _ => true
  | .takeMask => true
  | .readStatus => true
  | .request _ => false
  | .supplyResponse _ => false
  | .reset => false
  | .secondHost => false

end Sys2Proof.Machine
end

