-- ==== Sys2Proof/Certificates/Slice0/Obligations.lean ====
section
/-! DEFINITION. Certificates/Slice0/Obligations.lean: the statements for the provers. Each docstring
names the rule of spec/ it formalises, or says that the statement rests on a choice of the model. -/

open Sys2Proof Sys2Proof.Machine

/-! ### Encodings -/

/-- Decoding the encoding of any well-formed instruction gives it back, every operand included
(30_encoding.md §1, §2, §4). -/
def Obligations.DecodeInvertsEncode : Prop :=
  ∀ i : Instr, i.wellFormed = true → decode (encode i) = .ok i

/-- What the decoder reads is well-formed, and its encoding is the code read: no two codes decode to
one instruction (30_encoding.md §1, §2). -/
def Obligations.DecodedCodesReencode : Prop :=
  ∀ (c : Code) (i : Instr), decode c = .ok i → i.wellFormed = true ∧ encode i = c

/-- The operation map of OP (R63): a word with RSV zero is the operation its OP numbers, with
ARG = REQ[31:16] as it stands; OP 6 to 15 is none. BUILDWR may be read under the name of a
pseudo-instruction that expands to it. -/
def Obligations.OperationMapOfOp : Prop :=
  ∀ w : ReqWord, w.extractLsb' 4 12 = 0#12 →
    (w.extractLsb' 0 4 = 0#4 → decode (.req32 w) = .ok (.nop (w.extractLsb' 16 16))) ∧
    (w.extractLsb' 0 4 = 1#4 → decode (.req32 w) = .ok (.towire (w.extractLsb' 16 16))) ∧
    (w.extractLsb' 0 4 = 2#4 → decode (.req32 w) = .ok (.tological (w.extractLsb' 16 16))) ∧
    (w.extractLsb' 0 4 = 3#4 → decode (.req32 w) = .ok (.buildrd (w.extractLsb' 16 16))) ∧
    (w.extractLsb' 0 4 = 4#4 →
      ∃ i, decode (.req32 w) = .ok i ∧ i.expand = .buildwr (w.extractLsb' 16 16) ∧
        ∀ s, exec i s = exec (.buildwr (w.extractLsb' 16 16)) s) ∧
    (w.extractLsb' 0 4 = 5#4 → decode (.req32 w) = .ok (.decode (w.extractLsb' 16 16))) ∧
    (6 ≤ (w.extractLsb' 0 4).toNat → ∃ r, decode (.req32 w) = .error r)

/-- A few words written out from the encodings of 30_encoding.md §1 and §2 decode to what they stand
for, and reserved ones are rejected (95_test_vectors.md §2 to §5). Two clauses are the model's choice:
that 0xFFFF0004 and 0x00000004, which 30_encoding.md §4 makes words of ALLON and ALLOFF as well as of
BUILDWR, decode to `allon` and `alloff` (log entry 6). The names of the rejections are the model's own
(log entry 14). -/
def Obligations.WrittenOutWordsDecode : Prop :=
  decode (.req32 0xFFFF0000#32) = .ok (.nop 0xFFFF#16) ∧
  decode (.req32 0x00040001#32) = .ok (.towire 0x0004#16) ∧
  decode (.req32 0xB0810002#32) = .ok (.tological 0xB081#16) ∧
  decode (.req32 0xABCD0003#32) = .ok (.buildrd 0xABCD#16) ∧
  decode (.req32 0x12340004#32) = .ok (.buildwr 0x1234#16) ∧
  decode (.req32 0x00000005#32) = .ok (.decode 0x0000#16) ∧
  decode (.req32 0xFFFF0004#32) = .ok .allon ∧
  decode (.req32 0x00000004#32) = .ok .alloff ∧
  decode (.frameCmd8 0xD2#8) = .ok .frameCmdRead ∧
  decode (.frameCmd8 0xC3#8) = .ok .frameCmdWrite ∧
  decode (.frameCmd8 0x71#8) = .ok .frameCmdErase ∧
  decode (.req32 0x00000006#32) = .error (.reservedOp 0x6#4) ∧
  decode (.req32 0x00010011#32) = .error .reservedBitsSet ∧
  decode (.frameCmd8 0x00#8) = .error (.unknownFrameCmd 0x00#8)

/-- The request words of the legal operations with `ARG = a` (R79). -/
def Obligations.RequestWordsOfLegalOperations : Prop :=
  encode (.nop 0#16) = .req32 0x00000000#32 ∧
  (∀ a, encode (.towire a) = .req32 ((a.setWidth 32 <<< 16) ||| 0x1#32)) ∧
  (∀ a, encode (.tological a) = .req32 ((a.setWidth 32 <<< 16) ||| 0x2#32)) ∧
  encode (.buildrd 0#16) = .req32 0x00000003#32 ∧
  (∀ a, encode (.buildwr a) = .req32 ((a.setWidth 32 <<< 16) ||| 0x4#32)) ∧
  encode (.decode 0#16) = .req32 0x00000005#32 ∧
  encode (.towire 0x0004#16) = .req32 0x00040001#32

/-- ALLON and ALLOFF are BUILDWR #0xFFFF and BUILDWR #0x0000: same word, same effect (R78). -/
def Obligations.PseudoInstructionsExpand : Prop :=
  encode .allon = .req32 0xFFFF0004#32 ∧ encode .allon = encode (.buildwr 0xFFFF#16) ∧
  encode .alloff = .req32 0x00000004#32 ∧ encode .alloff = encode (.buildwr 0x0000#16) ∧
  ∀ s, exec .allon s = exec (.buildwr 0xFFFF#16) s ∧ exec .alloff s = exec (.buildwr 0x0000#16) s

/-- Every frame command code given to the block is an illegal request: it sets ILL and nothing else,
and any request word whose low byte is such a code does the same, whatever its other bits. The
model's inference from R64 and R67, log entry 5. -/
def Obligations.FrameCommandCodesAreIllegalRequests : Prop :=
  (∀ s, exec .frameCmdRead s = .next { s with ill := true } ∧
    exec .frameCmdWrite s = .next { s with ill := true } ∧
    exec .frameCmdErase s = .next { s with ill := true }) ∧
  ∀ (s : State) (w : ReqWord) (rest : List HostEvent) (i : Instr),
    s.script = .request w :: rest → decode (.frameCmd8 (w.extractLsb' 0 8)) = .ok i →
    step s = exec i { s with script := rest }

/-! ### The step and the requests -/

/-- A step whose next host event is a request runs the instruction the decoder reads from its word,
and leaves the host's later events as they are; `withFetchWord` presents exactly that word. -/
def Obligations.StepRunsTheDecodedRequest : Prop :=
  (∀ (s : State) (w : ReqWord) (rest : List HostEvent) (i : Instr),
    s.script = .request w :: rest → decode (.req32 w) = .ok i →
    step s = exec i { s with script := rest }) ∧
  ∀ (s : State) (w : Nat) (i : Instr),
    decodeTableWord 32 w = some i → step (s.withFetchWord 32 w) = exec i s

/-- A word with `RSV ≠ 0` or a reserved OP raises IllegalRequest, once, also with both causes: ILL is
set, nothing else changes, and the host's next event is performed next; every other word runs an
operation (R64, R131, R133). -/
def Obligations.IllegalRequestsOnlySetIll : Prop :=
  ∀ (s : State) (w : ReqWord) (rest : List HostEvent), s.script = .request w :: rest →
    (6 ≤ (w.extractLsb' 0 4).toNat ∨ w.extractLsb' 4 12 ≠ 0#12 →
      step s = .next { s with ill := true, script := rest }) ∧
    (¬ (6 ≤ (w.extractLsb' 0 4).toNat ∨ w.extractLsb' 4 12 ≠ 0#12) →
      ∃ i, decode (.req32 w) = .ok i ∧ step s = exec i { s with script := rest })

/-- Every request completes, and ILL (SR bit 0) is then its verdict, whatever ILL was before; it is 0
at reset (R29, R132). -/
def Obligations.IllIsTheVerdictOfEachRequest : Prop :=
  State.reset.ill = false ∧
  ∀ (s : State) (w : ReqWord) (rest : List HostEvent), s.script = .request w :: rest →
    ∃ t, step s = .next t ∧ t.ill = illegalWord w ∧ (statusWord t).getLsbD 0 = illegalWord w

/-- NOP clears ILL and changes nothing else, whatever ARG is (R108). -/
def Obligations.NopClearsOnlyIll : Prop :=
  ∀ (s : State) (arg : BitVec 16),
    exec (.nop arg) s = .next { s with ill := false } ∧
    ∀ rest, s.script = .request (arg.setWidth 32 <<< 16) :: rest →
      step s = .next { s with ill := false, script := rest }

/-- TOWIRE writes `toWire(ARG)` to MOUT, sets MVALID, clears ILL and changes nothing else, with the
corner cases of R83. -/
def Obligations.TowireWritesTheWireMask : Prop :=
  ∀ (s : State) (mask : RelayMask),
    exec (.towire mask) s =
      .next { s with mout := toWire s.lut mask, mvalid := true, ill := false } ∧
    (∀ rest, s.script = .request ((mask.setWidth 32 <<< 16) ||| 0x00000001#32) :: rest →
      step s = .next { s with mout := toWire s.lut mask, mvalid := true, ill := false, script := rest }) ∧
    toWire s.lut 0x0000#16 = 0x0000#16 ∧ toWire s.lut 0xFFFF#16 = 0xFFFF#16 ∧
    ∀ i < 16, toWire s.lut (1#16 <<< i) = lutEntry s.lut i

/-- TOLOGICAL writes `toLogical(ARG)` to MOUT, sets MVALID, clears ILL and changes nothing else, with
the corner cases of R84. -/
def Obligations.TologicalWritesTheRelayMask : Prop :=
  ∀ (s : State) (mask : WireMask),
    exec (.tological mask) s =
      .next { s with mout := toLogical s.lut mask, mvalid := true, ill := false } ∧
    (∀ rest, s.script = .request ((mask.setWidth 32 <<< 16) ||| 0x00000002#32) :: rest →
      step s = .next { s with mout := toLogical s.lut mask, mvalid := true, ill := false, script := rest }) ∧
    toLogical s.lut 0x0000#16 = 0x0000#16 ∧ toLogical s.lut 0xFFFF#16 = 0xFFFF#16 ∧
    (∀ i < 16, toLogical s.lut (lutEntry s.lut i) = 1#16 <<< i) ∧
    ∀ a b, toLogical s.lut (a ||| b) = toLogical s.lut a ||| toLogical s.lut b

/-- DECODE writes `toLogical(RESP_IN[3] ++ RESP_IN[2])` to MOUT, sets MVALID, clears ILL and changes
nothing else, whatever ARG and the other bytes are, with the corner cases of R106. -/
def Obligations.DecodeWritesTheResponseMask : Prop :=
  ∀ (s : State) (arg : BitVec 16),
    exec (.decode arg) s =
      .next { s with mout := toLogical s.lut (s.respIn[3] ++ s.respIn[2]), mvalid := true, ill := false } ∧
    (∀ rest, s.script = .request ((arg.setWidth 32 <<< 16) ||| 0x00000005#32) :: rest →
      step s = .next { s with
        mout := toLogical s.lut (s.respIn[3] ++ s.respIn[2]), mvalid := true, ill := false, script := rest }) ∧
    toLogical s.lut (0x00#8 ++ 0x00#8) = 0x0000#16 ∧ toLogical s.lut (0xFF#8 ++ 0xFF#8) = 0xFFFF#16

/-- BUILDRD fills FRAME with the read frame, whatever FRAME held and whatever ARG is, sets FSIZE to
64, clears ILL and changes nothing else (R102). -/
def Obligations.BuildrdBuildsTheReadFrame : Prop :=
  ∀ (s : State) (arg : BitVec 16), ∃ t,
    exec (.buildrd arg) s = .next t ∧
    frameShows t.frame (readFrameImage Config.readChecksum) ∧
    t = { s with frame := t.frame, fsize := 64#7, ill := false } ∧
    ∀ rest, s.script = .request ((arg.setWidth 32 <<< 16) ||| 0x00000003#32) :: rest →
      step s = .next { t with script := rest }

/-- BUILDWR fills FRAME with the write frame of its mask, whatever FRAME held, with the checksum over
the frame's first 14 bytes, sets FSIZE to 65, clears ILL and changes nothing else; with the corner
cases of R104. -/
def Obligations.BuildwrBuildsTheWriteFrame : Prop :=
  ∀ (s : State) (mask : RelayMask), ∃ t,
    exec (.buildwr mask) s = .next t ∧
    frameShows t.frame (writeFrameImage (toWire s.lut mask)) ∧
    csum t.frame = wireChecksum (toWire s.lut mask) ∧
    t = { s with frame := t.frame, fsize := 65#7, ill := false } ∧
    (∀ rest, s.script = .request ((mask.setWidth 32 <<< 16) ||| 0x00000004#32) :: rest →
      step s = .next { t with script := rest }) ∧
    (mask = 0x0000#16 → csum t.frame = 0x000001E9#32) ∧
    (mask = 0xFFFF#16 → csum t.frame = 0x000003E7#32) ∧
    (csum t.frame).toNat ≤ 0x3E7

/-- ALLON and ALLOFF build the same frames under every lookup table: wire mask 0xFFFF with checksum
0x3E7, and wire mask 0 with checksum 0x1E9 (95_test_vectors.md §3, W1 and W2). -/
def Obligations.AllOnAndAllOffBuildFixedFrames : Prop :=
  ∀ s : State, ∃ t u,
    exec .allon s = .next t ∧ t = { s with frame := t.frame, fsize := 65#7, ill := false } ∧
    frameShows t.frame [0xC3#8, 0x0E#8, 0xFF#8, 0xFF#8, 0x00#8, 0x00#8, 0x00#8, 0x00#8, 0x00#8, 0x00#8,
      0x48#8, 0x49#8, 0x44#8, 0x43#8, 0xE7#8, 0x03#8, 0x00#8, 0x00#8] ∧
    exec .alloff s = .next u ∧ u = { s with frame := u.frame, fsize := 65#7, ill := false } ∧
    frameShows u.frame [0xC3#8, 0x0E#8, 0x00#8, 0x00#8, 0x00#8, 0x00#8, 0x00#8, 0x00#8, 0x00#8, 0x00#8,
      0x48#8, 0x49#8, 0x44#8, 0x43#8, 0xE9#8, 0x01#8, 0x00#8, 0x00#8]

/-- No operation builds an ERASE frame: where FRAME's `cmd` is 0x71 after an instruction, that
instruction left FRAME as it was. And no request word asks for one: a word whose low byte is 0x71 is
no instruction (R109). -/
def Obligations.NoOperationBuildsAnEraseFrame : Prop :=
  (∀ (i : Instr) (s t : State), exec i s = .next t → readByte t.frame 0 = 0x71#8 → t.frame = s.frame) ∧
  ∀ w : ReqWord, w.extractLsb' 0 8 = 0x71#8 → ∃ r, decode (.req32 w) = .error r

/-! ### The lookup table and the mapping functions -/

/-- LutOK is the three conditions of R22, and it holds exactly of the tables of a permutation. -/
def Obligations.LutOkIsAPermutation : Prop :=
  ∀ table : LutTable,
    (lutOk table = true ↔
      (∀ i : Fin 16, popcount table[i] = 1) ∧
      (∀ i j : Fin 16, i ≠ j → table[i] &&& table[j] = 0#16) ∧
      orUpTo (tableEntry table) 16 = 0xFFFF#16) ∧
    (lutOk table = true ↔ ∃ p : Equiv.Perm (Fin 16), ∀ i : Fin 16, table[i] = 1#16 <<< (p i).val)

/-- `p(i)` is the unique position with `LUT[i] = 1 << p(i)`, and relay r is wire bit p(r − 1)
(R24). -/
def Obligations.WirePositionOfEachRelay : Prop :=
  ∀ lut : Lut,
    (∀ i < 16, wirePosition lut i < 16 ∧ lutEntry lut i = 1#16 <<< wirePosition lut i ∧
      ∀ k < 16, lutEntry lut i = 1#16 <<< k → k = wirePosition lut i) ∧
    ∀ r, 1 ≤ r → r ≤ 16 → toWire lut (1#16 <<< (r - 1)) = 1#16 <<< wirePosition lut (r - 1)

/-- A table that fails LutOK is refused as a configuration; with any other the block exists after
reset (R23). -/
def Obligations.PowerOnChecksTheTable : Prop :=
  (∀ table : LutTable, lutOk table = false → powerOn table = .refused .lutNotOk) ∧
  ∀ (table : LutTable) (h : lutOk table = true),
    powerOn table = .next { State.reset with lut := ⟨table, h⟩ }

/-- LUT is the parameter RELAYS_LUT at reset, no step changes it, and no request but TOWIRE,
TOLOGICAL, BUILDWR and DECODE reads it: any other gives the same result whatever the table is
(R21). -/
def Obligations.LutIsReadOnly : Prop :=
  State.reset.lut = relaysLut ∧
  (∀ s t : State, step s = .next t → t.lut = s.lut) ∧
  ∀ (s : State) (w : ReqWord) (rest : List HostEvent) (lut : Lut), s.script = .request w :: rest →
    ¬ (w.extractLsb' 4 12 = 0#12 ∧ (w.extractLsb' 0 4 = 1#4 ∨ w.extractLsb' 0 4 = 2#4 ∨
      w.extractLsb' 0 4 = 4#4 ∨ w.extractLsb' 0 4 = 5#4)) →
    ∃ t, step s = .next t ∧ step { s with lut := lut } = .next { t with lut := lut }

/-- `toWire` ORs the entries of the set logical bits, so it moves logical bit i to wire bit p(i)
(R80). -/
def Obligations.ToWireMovesEachBit : Prop :=
  ∀ (lut : Lut) (m : RelayMask),
    (∀ k, (toWire lut m).getLsbD k = true ↔
      ∃ i < 16, m.getLsbD i = true ∧ (lutEntry lut i).getLsbD k = true) ∧
    ∀ i < 16, (toWire lut m).getLsbD (wirePosition lut i) = m.getLsbD i

/-- `toLogical` sets the logical bits whose pattern is present, so logical bit i is wire bit p(i)
(R81). -/
def Obligations.ToLogicalMovesEachBit : Prop :=
  ∀ (lut : Lut) (w : WireMask), ∀ i < 16,
    ((toLogical lut w).getLsbD i = true ↔ w &&& lutEntry lut i = lutEntry lut i) ∧
    (toLogical lut w).getLsbD i = w.getLsbD (wirePosition lut i)

/-- The six laws of the mapping functions, for every table that meets LutOK (R82). -/
def Obligations.BitMapperLaws : Prop :=
  ∀ lut : Lut,
    (∀ m, toLogical lut (toWire lut m) = m) ∧
    (∀ w, toWire lut (toLogical lut w) = w) ∧
    (toWire lut 0x0000#16 = 0x0000#16 ∧ toWire lut 0xFFFF#16 = 0xFFFF#16 ∧
      toLogical lut 0x0000#16 = 0x0000#16 ∧ toLogical lut 0xFFFF#16 = 0xFFFF#16) ∧
    (∀ i < 16, toWire lut (1#16 <<< i) = lutEntry lut i ∧ toLogical lut (lutEntry lut i) = 1#16 <<< i) ∧
    (∀ a b, toWire lut (a ||| b) = toWire lut a ||| toWire lut b ∧
      toWire lut (a &&& b) = toWire lut a &&& toWire lut b ∧
      toWire lut (a ^^^ b) = toWire lut a ^^^ toWire lut b ∧ toWire lut (~~~a) = ~~~(toWire lut a) ∧
      toLogical lut (a ||| b) = toLogical lut a ||| toLogical lut b ∧
      toLogical lut (a &&& b) = toLogical lut a &&& toLogical lut b ∧
      toLogical lut (a ^^^ b) = toLogical lut a ^^^ toLogical lut b ∧
      toLogical lut (~~~a) = ~~~(toLogical lut a)) ∧
    ∀ m, popcount (toWire lut m) = popcount m

/-! ### Memory, frames and the checksum -/

/-- MemWrite stores its value little-endian, byte k at offset a + k, and no other byte changes
(R42). -/
def Obligations.MemWriteIsLittleEndian : Prop :=
  ∀ (m : Memory) (a n : Nat) (v : BitVec 32), n = 1 ∨ n = 2 ∨ n = 4 → a + n ≤ 65 →
    (∀ k < n, readByte (memWrite m a n v) (a + k) = v.extractLsb' (8 * k) 8) ∧
    ∀ x, x < a ∨ a + n ≤ x → readByte (memWrite m a n v) x = readByte m x

/-- MemRead gives the bytes at its offset, the lowest offset least significant (R43). -/
def Obligations.MemReadIsLittleEndian : Prop :=
  ∀ (resp : Vector Byte 64) (a : Nat),
    (∀ h : a + 1 ≤ 64, memRead resp a 1 = (resp[a]'(by omega)).setWidth 32) ∧
    (∀ h : a + 2 ≤ 64, memRead resp a 2 =
      (resp[a + 1]'(by omega) ++ resp[a]'(by omega)).setWidth 32) ∧
    ∀ h : a + 4 ≤ 64, memRead resp a 4 =
      resp[a + 3]'(by omega) ++ resp[a + 2]'(by omega) ++ resp[a + 1]'(by omega) ++ resp[a]'(by omega)

/-- Two memories in canonical form with the same 65 bytes are equal data (the model's representation,
log entry 8). -/
def Obligations.CanonicalFrameIsItsBytes : Prop :=
  ∀ m₁ m₂ : Memory, m₁.wf = true → m₂.wf = true →
    (∀ x < 65, readByte m₁ x = readByte m₂ x) → m₁ = m₂

/-- The checksum is the sum of the first 14 bytes modulo 2^32 and reads no other byte; BUILDWR stores
it, little-endian, as the checksum of the frame that results (R100, R105). -/
def Obligations.WriteChecksumIsTheByteSum : Prop :=
  (∀ m : Memory, csum m = BitVec.ofNat 32 (∑ k ∈ Finset.range 14, (readByte m k).toNat)) ∧
  (∀ m₁ m₂ : Memory, (∀ x < 14, readByte m₁ x = readByte m₂ x) → csum m₁ = csum m₂) ∧
  ∀ (s : State) (mask : RelayMask), ∃ t, exec (.buildwr mask) s = .next t ∧
    readByte t.frame 17 ++ readByte t.frame 16 ++ readByte t.frame 15 ++ readByte t.frame 14 =
      csum t.frame

/-- The range and width facts of R101. -/
def Obligations.WriteChecksumBounds : Prop :=
  (∀ m : Memory, sumBytes m 14 ≤ 3570 ∧ (csum m).toNat = sumBytes m 14) ∧
  ∀ (s : State) (mask : RelayMask), ∃ t, exec (.buildwr mask) s = .next t ∧
    (csum t.frame).toNat = 489 + ((toWire s.lut mask).extractLsb' 0 8).toNat +
      ((toWire s.lut mask).extractLsb' 8 8).toNat ∧
    489 ≤ (csum t.frame).toNat ∧ (csum t.frame).toNat ≤ 999 ∧
    (readByte t.frame 0).toNat + (readByte t.frame 1).toNat + (readByte t.frame 10).toNat +
      (readByte t.frame 11).toNat + (readByte t.frame 12).toNat + (readByte t.frame 13).toNat = 489 ∧
    (∀ x, 4 ≤ x → x ≤ 9 → readByte t.frame x = 0x00#8) ∧
    readByte t.frame 16 = 0x00#8 ∧ readByte t.frame 17 = 0x00#8 ∧
    (readByte t.frame 15 = 0x01#8 ∨ readByte t.frame 15 = 0x02#8 ∨ readByte t.frame 15 = 0x03#8) ∧
    (mask = 0x0000#16 → (csum t.frame).toNat = 489) ∧
    (mask = 0xFFFF#16 → (csum t.frame).toNat = 489 + 510) ∧
    ∀ i < 16, mask = 1#16 <<< i → (csum t.frame).toNat = 489 + 2 ^ (wirePosition s.lut i % 8)

/-- The read frame carries the parameter READ_CHECKSUM as it is; the checksum function applied to that
frame gives 0x280 (R103). -/
def Obligations.ReadChecksumIsTheParameter : Prop :=
  ∀ (s : State) (arg : BitVec 16), ∃ t, exec (.buildrd arg) s = .next t ∧
    readByte t.frame 17 ++ readByte t.frame 16 ++ readByte t.frame 15 ++ readByte t.frame 14 =
      Config.readChecksum ∧
    csum t.frame = 0x280#32

/-! ### What depends on what -/

/-- DECODE reads only RESP_IN[2] and RESP_IN[3]: with the same two bytes it completes with the same
mask, whatever the other 62 are (R76, R107). -/
def Obligations.DecodeReadsOnlyTheRegBytes : Prop :=
  ∀ (s : State) (resp : Vector Byte 64) (arg : BitVec 16),
    resp[2] = s.respIn[2] → resp[3] = s.respIn[3] →
    ∃ t, exec (.decode arg) s = .next t ∧
      t.mout = toLogical s.lut (s.respIn[3] ++ s.respIn[2]) ∧
      exec (.decode arg) { s with respIn := resp } = .next { t with respIn := resp }

/-- RESP_IN matters only in a DECODE step: any other request gives the same result whatever the port
carries, and supplying a response changes nothing but the port (R155). -/
def Obligations.ResponseIsSampledOnlyByDecode : Prop :=
  (∀ (s : State) (w : ReqWord) (rest : List HostEvent) (resp : Vector Byte 64),
    s.script = .request w :: rest → ¬ (w.extractLsb' 0 4 = 5#4 ∧ w.extractLsb' 4 12 = 0#12) →
    ∃ t, step s = .next t ∧ step { s with respIn := resp } = .next { t with respIn := resp }) ∧
  ∀ (s : State) (bytes : Vector Byte 64) (rest : List HostEvent),
    s.script = .supplyResponse bytes :: rest →
    step s = .next { s with respIn := bytes, script := rest }

/-- No hidden state: with the same LUT and the same RESP_IN, an instruction gives the same results
from any two states (10_state.md §5). -/
def Obligations.ResultsDependOnInputsAlone : Prop :=
  ∀ (i : Instr) (s₁ s₂ : State), s₁.lut = s₂.lut → s₁.respIn = s₂.respIn →
    ∃ t₁ t₂, exec i s₁ = .next t₁ ∧ exec i s₂ = .next t₂ ∧ t₁.ill = t₂.ill ∧
      (isMaskOp i = true → t₁.mout = t₂.mout ∧ t₁.mvalid = true ∧ t₂.mvalid = true) ∧
      (isBuildOp i = true → t₁.fsize = t₂.fsize ∧ ∀ x < 65, readByte t₁.frame x = readByte t₂.frame x)

/-- The frame of every instruction: one that builds no frame leaves FRAME and FSIZE, one that is no
mask operation leaves MOUT and MVALID, and none touches LUT, RESP_IN or what the host does next
(10_state.md §1). -/
def Obligations.RequestsOverwriteOnlyTheirResults : Prop :=
  ∀ (i : Instr) (s : State), ∃ t, exec i s = .next t ∧
    (isBuildOp i = false → t.frame = s.frame ∧ t.fsize = s.fsize) ∧
    (isMaskOp i = false → t.mout = s.mout ∧ t.mvalid = s.mvalid) ∧
    t.lut = s.lut ∧ t.respIn = s.respIn ∧ t.script = s.script

/-! ### The host's side -/

/-- The three mask operations set MVALID, only a reset clears it, and a read of MOUT faults exactly
while it is 0 (R28). -/
def Obligations.MvalidGuardsMout : Prop :=
  (∀ (s : State) (m arg : BitVec 16), ∃ t u v,
    exec (.towire m) s = .next t ∧ t.mvalid = true ∧
    exec (.tological m) s = .next u ∧ u.mvalid = true ∧
    exec (.decode arg) s = .next v ∧ v.mvalid = true) ∧
  (∀ s t : State, step s = .next t → s.mvalid = true → t.mvalid = false →
    ∃ rest, s.script = .reset :: rest) ∧
  ∀ (s : State) (rest : List HostEvent), s.script = .takeMask :: rest →
    (s.mvalid = false → step s = .fault .maskNotValid) ∧
    (s.mvalid = true → step s = .next { s with script := rest } ∧ hostReadMask s = .ok s.mout)

/-- Only a legal BUILDRD or BUILDWR request, or a reset, changes FRAME or FSIZE (10_state.md §3). -/
def Obligations.OnlyBuildsAndResetWriteFrame : Prop :=
  ∀ s t : State, step s = .next t → t.frame ≠ s.frame ∨ t.fsize ≠ s.fsize →
    (∃ w rest, s.script = .request w :: rest ∧ illegalWord w = false ∧
      (w.extractLsb' 0 4 = 3#4 ∨ w.extractLsb' 0 4 = 4#4)) ∨
    ∃ rest, s.script = .reset :: rest

/-- A host read of FRAME faults while FSIZE is 0; otherwise taking the frame gives the bytes
FRAME[0..FSIZE−1], in order, and reading one offset gives its byte (10_state.md §3, 60_exceptions.md
§3). The fault at an offset past 64 is the model's choice, log entry 8. -/
def Obligations.FrameReadsNeedABuild : Prop :=
  ∀ (s : State) (rest : List HostEvent) (x : Nat),
    (s.script = .takeFrame :: rest → s.fsize = 0#7 → step s = .fault .frameNotBuilt) ∧
    (s.script = .readFrameByte x :: rest → s.fsize = 0#7 → step s = .fault .frameNotBuilt) ∧
    (s.script = .readFrameByte x :: rest → s.fsize ≠ 0#7 → 65 ≤ x →
      step s = .fault (.noSuchFrameOffset x)) ∧
    (s.script = .takeFrame :: rest → s.fsize ≠ 0#7 →
      step s = .next { s with script := rest } ∧
      hostTakeFrame s = .ok ((List.range s.fsize.toNat).map (readByte s.frame))) ∧
    (s.script = .readFrameByte x :: rest → s.fsize ≠ 0#7 → x < 65 →
      step s = .next { s with script := rest } ∧ hostReadFrameByte s x = .ok (readByte s.frame x))

/-- The frame the host takes has the length its `cmd` byte tells: 64 for READ, 65 for WRITE
(30_encoding.md §2). -/
def Obligations.TakenFrameMatchesItsCommand : Prop :=
  ∀ s : State, s.Inv → s.fsize ≠ 0#7 →
    ∃ cmd bytes, hostTakeFrame s = .ok (cmd :: bytes) ∧
      wireFrameLength cmd = some (bytes.length + 1) ∧
      (cmd = 0xD2#8 ∧ bytes.length + 1 = 64 ∨ cmd = 0xC3#8 ∧ bytes.length + 1 = 65)

/-- The layout of SR; reading it has no effect on the block (R30). -/
def Obligations.StatusWordLayout : Prop :=
  (∀ s : State, (statusWord s).getLsbD 0 = s.ill ∧ (statusWord s).getLsbD 1 = s.mvalid ∧
    (statusWord s).extractLsb' 2 6 = 0#6 ∧ (statusWord s).extractLsb' 8 7 = s.fsize ∧
    (statusWord s).extractLsb' 15 17 = 0#17) ∧
  (∀ s : State, s.Inv → s.fsize = 0#7 ∨ s.fsize = 64#7 ∨ s.fsize = 65#7) ∧
  statusWord State.reset = 0x00000000#32 ∧
  ∀ (s : State) (rest : List HostEvent), s.script = .readStatus :: rest →
    step s = .next { s with script := rest }

/-- No read has a side effect: a host read that does not fault leaves the block as it is, and no
request changes RESP_IN or LUT (R47). -/
def Obligations.ReadsHaveNoSideEffect : Prop :=
  (∀ (s t : State) (e : HostEvent) (rest : List HostEvent), s.script = e :: rest →
    isHostRead e = true → step s = .next t → t = { s with script := rest }) ∧
  ∀ (s : State) (w : ReqWord) (rest : List HostEvent), s.script = .request w :: rest →
    ∃ t, step s = .next t ∧ t.respIn = s.respIn ∧ t.lut = s.lut

/-- A second host is refused (R51). -/
def Obligations.SecondHostIsRefused : Prop :=
  ∀ (s : State) (rest : List HostEvent), s.script = .secondHost :: rest →
    step s = .refused .secondHost

/-- With nothing asked of it the block stays as it is (the model's choice, log entry 1). -/
def Obligations.IdleBlockStays : Prop :=
  ∀ s : State, s.script = [] → step s = .next s

/-- A step performs the host's next event, whole and alone: a request runs its decoded instruction or
raises IllegalRequest, and every other event has the one effect written here; then the later events
stand as they were, and what they are makes no difference to the step (20_memory.md §5, 60_exceptions.md
§1 and §3, 70_reset_and_hazards.md §1, 10_state.md §3). That the host's events stand in the field
`script` is the model's choice, log entry 1; so are the fields `respIn` (log entry 2), the fault at an
offset past 64 (log entry 8) and that the reset event leaves `respIn` and `script` (log entry 13). -/
def Obligations.EventsArePerformedInOrder : Prop :=
  ∀ (s : State) (rest : List HostEvent),
    (∀ w i, s.script = .request w :: rest → decode (.req32 w) = .ok i →
      step s = exec i { s with script := rest }) ∧
    (∀ w r, s.script = .request w :: rest → decode (.req32 w) = .error r →
      step s = .next { s with ill := true, script := rest }) ∧
    (∀ bytes, s.script = .supplyResponse bytes :: rest →
      step s = .next { s with respIn := bytes, script := rest }) ∧
    (s.script = .takeFrame :: rest →
      step s = if s.fsize = 0#7 then .fault .frameNotBuilt else .next { s with script := rest }) ∧
    (∀ x, s.script = .readFrameByte x :: rest →
      step s = if s.fsize = 0#7 then .fault .frameNotBuilt
        else if x < 65 then .next { s with script := rest } else .fault (.noSuchFrameOffset x)) ∧
    (s.script = .takeMask :: rest →
      step s = if s.mvalid = true then .next { s with script := rest } else .fault .maskNotValid) ∧
    (s.script = .readStatus :: rest → step s = .next { s with script := rest }) ∧
    (s.script = .reset :: rest →
      step s = .next { s with
        frame := [], fsize := 0#7, mout := 0x0000#16, mvalid := false, ill := false, script := rest }) ∧
    (s.script = .secondHost :: rest → step s = .refused .secondHost) ∧
    ∀ e t, s.script = e :: rest → step s = .next t →
      t.script = rest ∧ ∀ later, step { s with script := e :: later } = .next { t with script := later }

/-- A step stops only at a second host, which is refused (20_memory.md §5), at a host read of MOUT or
FRAME before its result exists, which the spec makes a fault (10_state.md §3), or at a host read of
FRAME past offset 64, whose fault is the model's choice (log entry 8). In particular no request ever
stops the block (60_exceptions.md §1). -/
def Obligations.OnlyHostReadsFault : Prop :=
  ∀ s : State,
    (∃ t, step s = .next t) ∨
    (∃ rest, s.script = .secondHost :: rest ∧ step s = .refused .secondHost) ∨
    ∃ e rest f, s.script = e :: rest ∧ step s = .fault f ∧
      ((e = .takeMask ∧ s.mvalid = false) ∨
       ((e = .takeFrame ∨ ∃ x, e = .readFrameByte x) ∧ s.fsize = 0#7) ∨
       ∃ x, 65 ≤ x ∧ e = .readFrameByte x)

/-! ### Reset and the invariant -/

/-- Reset: the state after reset holds the reset values, and the reset event gives them from any state
without touching LUT; it is no request (R150). -/
def Obligations.ResetLeavesTheResetValues : Prop :=
  ((∀ x < 65, readByte State.reset.frame x = 0x00#8) ∧ State.reset.fsize = 0#7 ∧
    State.reset.mout = 0x0000#16 ∧ State.reset.mvalid = false ∧ State.reset.ill = false) ∧
  ∀ (s : State) (rest : List HostEvent), s.script = .reset :: rest →
    ∃ t, step s = .next t ∧ (∀ x < 65, readByte t.frame x = 0x00#8) ∧ t.fsize = 0#7 ∧
      t.mout = 0x0000#16 ∧ t.mvalid = false ∧ t.ill = false ∧ t.lut = s.lut ∧ t.script = rest

/-- FSIZE is 0, 64 or 65 and no step takes it out of these; BUILDRD sets it to 64, BUILDWR to 65,
reset to 0 (R26). -/
def Obligations.FsizeHoldsOnlyFrameLengths : Prop :=
  State.reset.fsize = 0#7 ∧
  (∀ s t : State, step s = .next t → s.fsize = 0#7 ∨ s.fsize = 64#7 ∨ s.fsize = 65#7 →
    t.fsize = 0#7 ∨ t.fsize = 64#7 ∨ t.fsize = 65#7) ∧
  (∀ (s : State) (arg : BitVec 16), ∃ t, exec (.buildrd arg) s = .next t ∧ t.fsize = 64#7) ∧
  ∀ (s : State) (mask : RelayMask), ∃ t, exec (.buildwr mask) s = .next t ∧ t.fsize = 65#7

/-- The block's invariant holds after reset. -/
def Obligations.InvariantHoldsAtReset : Prop := State.reset.Inv

/-- Every step from a state that meets the invariant leads to one that does: FRAME is canonical, FSIZE
and FRAME always belong together (no partly built frame is ever seen), and MOUT holds its reset value
while MVALID is 0. -/
def Obligations.StepKeepsTheInvariant : Prop :=
  ∀ s t : State, s.Inv → step s = .next t → t.Inv
end

