-- ==== Sys2Proof/Laws/Encoding.lean ====
section
/-! SUPPORT. Laws/Encoding.lean: the fields of a request word put together from its fields. -/

namespace Sys2Proof

/-- The bits of a request word: OP, twelve zeros, ARG (30_encoding.md R61). -/
theorem getLsbD_reqWord (op : BitVec 4) (arg : BitVec 16) (i : Nat) :
    (reqWord op arg).getLsbD i =
      if i < 4 then op.getLsbD i else if i < 16 then false else arg.getLsbD (i - 16) := by
  show @BitVec.getLsbD (16 + 12 + 4) ((arg ++ 0#12) ++ op) i = _
  rw [BitVec.getLsbD_append, BitVec.getLsbD_append, BitVec.getLsbD_zero]
  by_cases h4 : i < 4
  · simp [h4]
  · by_cases h16 : i < 16
    · simp [h4, h16, show i - 4 < 12 by omega]
    · simp [h4, h16, show ¬ i - 4 < 12 by omega, show i - 4 - 12 = i - 16 by omega]

@[simp] theorem reqOp_reqWord (op : BitVec 4) (arg : BitVec 16) : reqOp (reqWord op arg) = op := by
  refine BitVec.eq_of_getLsbD_eq fun i hi => ?_
  rw [reqOp, BitVec.getLsbD_extractLsb', getLsbD_reqWord]
  simp [hi]

@[simp] theorem reqRsv_reqWord (op : BitVec 4) (arg : BitVec 16) :
    reqRsv (reqWord op arg) = 0#12 := by
  refine BitVec.eq_of_getLsbD_eq fun i hi => ?_
  rw [reqRsv, BitVec.getLsbD_extractLsb', getLsbD_reqWord, if_neg (by omega), if_pos (by omega)]
  simp

@[simp] theorem reqArg_reqWord (op : BitVec 4) (arg : BitVec 16) :
    reqArg (reqWord op arg) = arg := by
  refine BitVec.eq_of_getLsbD_eq fun i hi => ?_
  rw [reqArg, BitVec.getLsbD_extractLsb', getLsbD_reqWord, if_neg (by omega), if_neg (by omega)]
  simp [hi]

/-- A word with RSV zero is made of its OP and its ARG (30_encoding.md R61). -/
theorem reqWord_of_fields (w : ReqWord) (h : reqRsv w = 0#12) :
    reqWord (reqOp w) (reqArg w) = w := by
  refine BitVec.eq_of_getLsbD_eq fun i hi => ?_
  rw [getLsbD_reqWord, reqOp, reqArg, BitVec.getLsbD_extractLsb', BitVec.getLsbD_extractLsb']
  by_cases h4 : i < 4
  · simp [h4]
  · by_cases h16 : i < 16
    · have := congrArg (fun v => v.getLsbD (i - 4)) h
      simp only [reqRsv, BitVec.getLsbD_extractLsb', BitVec.getLsbD_zero] at this
      rw [show 4 + (i - 4) = i by omega] at this
      simpa [h4, h16, show i - 4 < 12 by omega] using this.symm
    · simp [h4, h16, show i - 16 < 16 by omega, show 16 + (i - 16) = i by omega]

end Sys2Proof
end

