-- ==== Sys2Proof/Laws/Lut.lean ====
section
/-! SUPPORT. Laws/Lut.lean: the three conditions a Lut carries, and the bits of the two mapping
functions. -/

namespace Sys2Proof.Machine

theorem lutOk_iff (t : LutTable) :
    lutOk t = true ↔
      (∀ i < 16, popcount (tableEntry t i) = 1) ∧
      (∀ i < 16, ∀ j < 16, i ≠ j → tableEntry t i &&& tableEntry t j = 0#16) ∧
      orUpTo (tableEntry t) 16 = 0xFFFF#16 := by
  simp [lutOk, List.all_eq_true, and_assoc]
  grind

theorem lut_popcount (lut : Lut) {i : Nat} (hi : i < 16) : popcount (lutEntry lut i) = 1 :=
  ((lutOk_iff _).mp lut.valid).1 i hi

theorem lut_disjoint (lut : Lut) {i j : Nat} (hi : i < 16) (hj : j < 16) (h : i ≠ j) :
    lutEntry lut i &&& lutEntry lut j = 0#16 :=
  ((lutOk_iff _).mp lut.valid).2.1 i hi j hj h

theorem lut_covers (lut : Lut) : orUpTo (lutEntry lut) 16 = 0xFFFF#16 :=
  ((lutOk_iff _).mp lut.valid).2.2

/-- A bit of `toWire`: set where some set logical bit's entry has it (40_bitmapper.md R80). -/
theorem getLsbD_toWire (lut : Lut) (m : RelayMask) (k : Nat) :
    (toWire lut m).getLsbD k = true ↔
      ∃ i < 16, m.getLsbD i = true ∧ (lutEntry lut i).getLsbD k = true := by
  simp only [toWire, getLsbD_orUpTo]
  refine exists_congr fun i => and_congr_right fun _ => ?_
  split <;> simp_all

theorem getLsbD_one_shift {i : Nat} (hi : i < 16) (k : Nat) :
    (1#16 <<< i).getLsbD k = decide (k = i) := by
  by_cases hk : k < 16
  · have : ∀ i k : Fin 16, (1#16 <<< i.val).getLsbD k.val = decide (k.val = i.val) := by decide
    exact this ⟨i, hi⟩ ⟨k, hk⟩
  · rw [BitVec.getLsbD_of_ge _ _ (by omega)]
    simp; omega

/-- A bit of `toLogical`: set where that entry's pattern is present (40_bitmapper.md R81). -/
theorem getLsbD_toLogical (lut : Lut) (w : WireMask) {i : Nat} (hi : i < 16) :
    (toLogical lut w).getLsbD i = true ↔ w &&& lutEntry lut i = lutEntry lut i := by
  simp only [toLogical, getLsbD_orUpTo]
  constructor
  · rintro ⟨j, hj, h⟩
    split at h
    · rw [getLsbD_one_shift hj] at h
      obtain rfl : i = j := by simpa using h
      assumption
    · simp at h
  · intro h
    exact ⟨i, hi, by rw [if_pos h, getLsbD_one_shift hi]; simp⟩

end Sys2Proof.Machine
end

