-- ==== Sys2Proof/Laws/Memory.lean ====
section
/-! SUPPORT. Laws/Memory.lean: reading after writing one byte of FRAME, and every memory operation
keeps the canonical form. -/

namespace Sys2Proof.Machine

@[simp] theorem readByte_nil (x : Nat) : readByte [] x = 0x00#8 := rfl

theorem readByte_cons (a : Nat) (b : Byte) (m : Memory) (x : Nat) :
    readByte ((a, b) :: m) x = if a = x then b else readByte m x := rfl

theorem readByte_dropOffset (m : Memory) (a x : Nat) :
    readByte (dropOffset m a) x = if x = a then 0x00#8 else readByte m x := by
  induction m with
  | nil => simp [dropOffset]
  | cons c m ih => obtain ⟨k, b⟩ := c; grind [dropOffset, readByte_cons]

theorem readByte_cellFor_append (a : Nat) (b : Byte) (m : Memory) (x : Nat) :
    readByte (cellFor a b ++ m) x =
      if x = a then (if b = 0x00#8 then readByte m a else b) else readByte m x := by
  by_cases hb : b = 0x00#8 <;> grind [cellFor, unlistedByte, readByte_cons]

theorem readByte_putByte (m : Memory) (a : Nat) (b : Byte) (x : Nat) :
    readByte (putByte m a b) x = if x = a then b else readByte m x := by
  induction m with
  | nil =>
    have h := readByte_cellFor_append a b [] x
    simp only [List.append_nil, readByte_nil] at h
    rw [putByte, h, readByte_nil]
    split <;> simp_all
  | cons c m ih =>
    obtain ⟨k, c⟩ := c
    grind [putByte, readByte_cons, readByte_cellFor_append, readByte_dropOffset]

/-- Reading a byte after storing one, for every memory, canonical or not. -/
theorem readByte_writeByte (m : Memory) (a : Nat) (b : Byte) (x : Nat) :
    readByte (writeByte m a b) x = if x = a ∧ a < frameBytes then b else readByte m x := by
  grind [writeByte, readByte_putByte]

theorem readByte_fillBytes (m : Memory) (b : Byte) (n x : Nat) (hn : n ≤ frameBytes) :
    readByte (fillBytes m b n) x = if x < n then b else readByte m x := by
  induction n with
  | zero => simp [fillBytes]
  | succ n ih => grind [fillBytes, readByte_writeByte]

theorem canonicalFrom_mono {lo hi : Nat} {m : Memory} (h : canonicalFrom hi m = true)
    (hlo : lo ≤ hi) : canonicalFrom lo m = true := by
  cases m with
  | nil => rfl
  | cons c m => grind [canonicalFrom]

theorem canonicalFrom_dropOffset {lo : Nat} {m : Memory} (x : Nat)
    (h : canonicalFrom lo m = true) : canonicalFrom lo (dropOffset m x) = true := by
  induction m generalizing lo with
  | nil => rfl
  | cons c m ih => grind [canonicalFrom, dropOffset, canonicalFrom_mono]

theorem canonicalFrom_putByte {lo : Nat} {m : Memory} {x : Nat} (b : Byte)
    (h : canonicalFrom lo m = true) (hlo : lo ≤ x) (hx : x < frameBytes) :
    canonicalFrom lo (putByte m x b) = true := by
  induction m generalizing lo with
  | nil => grind [canonicalFrom, putByte, cellFor]
  | cons c m ih =>
    obtain ⟨a, c⟩ := c
    simp only [canonicalFrom, Bool.and_eq_true, decide_eq_true_eq] at h
    obtain ⟨⟨⟨h1, h2⟩, h3⟩, h4⟩ := h
    have hd := canonicalFrom_dropOffset x h4
    have hm := canonicalFrom_mono (lo := lo) h4 (by omega)
    simp only [putByte]
    split
    · simp [canonicalFrom, h1, h2, h3, ih h4 (by omega)]
    · split
      · exact ih hm hlo
      · rename_i hlt hne
        have hxa : x < a := by omega
        by_cases hb : b = unlistedByte
        · simp [cellFor, hb, canonicalFrom, h1, h2, h3, hd]
        · have : x + 1 ≤ a := hxa
          simp [cellFor, hb, canonicalFrom, h2, h3, hd, hlo, hx, this]

theorem writeByte_wf {m : Memory} (x : Nat) (b : Byte) (h : m.wf = true) :
    (writeByte m x b).wf = true := by
  simp only [writeByte]
  split
  · exact canonicalFrom_putByte b h (Nat.zero_le _) ‹_›
  · exact h

theorem memWrite_wf {m : Memory} (a n : Nat) (v : BitVec 32) (h : m.wf = true) :
    (memWrite m a n v).wf = true := by
  induction n with
  | zero => exact h
  | succ n ih => exact writeByte_wf _ _ ih

theorem fillBytes_wf {m : Memory} (b : Byte) (n : Nat) (h : m.wf = true) :
    (fillBytes m b n).wf = true := by
  induction n with
  | zero => exact h
  | succ n ih => exact writeByte_wf _ _ ih

theorem putField_wf {m : Memory} (f : FrameField) (v : BitVec 32) (h : m.wf = true) :
    (putField m f v).wf = true := memWrite_wf _ _ _ h

theorem buildReadFrame_wf {m : Memory} (h : m.wf = true) : (buildReadFrame m).wf = true := by
  unfold buildReadFrame
  iterate 8 apply putField_wf
  exact fillBytes_wf _ _ h

theorem buildWriteFrame_wf {m : Memory} (w : WireMask) (h : m.wf = true) :
    (buildWriteFrame m w).wf = true := by
  unfold buildWriteFrame writeFrameSoFar
  iterate 8 apply putField_wf
  exact fillBytes_wf _ _ h

/-- The memory after reset is canonical. -/
theorem reset_frame_wf : State.reset.frame.wf = true := rfl

/-- Every field of the structure lies inside FRAME (20_memory.md R44: no access is out of range). -/
theorem field_in_frame (f : FrameField) : fieldOffset f + fieldSize f ≤ structSize := by
  cases f <;> decide

end Sys2Proof.Machine
end

