-- ==== Sys2Proof/Laws/PerInstr.lean ====
section
/-! SUPPORT. Laws/PerInstr.lean: every instruction's encoding carries the fixed bits of its row of
spec/opcode_table.json. -/

namespace Sys2Proof.Laws

/-- A code agrees with a row's match under the row's mask. -/
def codeMatches (mask pattern : Nat) : Code → Prop
  | .req32 w => w &&& BitVec.ofNat 32 mask = BitVec.ofNat 32 pattern
  | .frameCmd8 cmd => cmd &&& BitVec.ofNat 8 mask = BitVec.ofNat 8 pattern

/-- The mask and the match of the instruction's row, as the table prints them. -/
def tableRow : Instr → Nat × Nat
  | .nop _ => (0x0000FFFF, 0x00000000)
  | .towire _ => (0x0000FFFF, 0x00000001)
  | .tological _ => (0x0000FFFF, 0x00000002)
  | .buildrd _ => (0x0000FFFF, 0x00000003)
  | .buildwr _ => (0x0000FFFF, 0x00000004)
  | .decode _ => (0x0000FFFF, 0x00000005)
  | .frameCmdRead => (0xFF, 0xD2)
  | .frameCmdWrite => (0xFF, 0xC3)
  | .frameCmdErase => (0xFF, 0x71)
  | .allon => (0xFFFFFFFF, 0xFFFF0004)
  | .alloff => (0xFFFFFFFF, 0x00000004)

/-- The encoding of an instruction agrees with its row. -/
def RowMatch.Statement (i : Instr) : Prop := codeMatches (tableRow i).1 (tableRow i).2 (encode i)

theorem reqWord_and_low (op : BitVec 4) (arg : BitVec 16) :
    reqWord op arg &&& 0x0000FFFF#32 = op.setWidth 32 := by
  apply BitVec.eq_of_getLsbD_eq
  intro i hi
  have hmask : ∀ k : Fin 32, (0x0000FFFF#32).getLsbD k.val = decide (k.val < 16) := by decide
  rw [BitVec.getLsbD_and, hmask ⟨i, hi⟩]
  rw [getLsbD_reqWord]
  by_cases h4 : i < 4
  · simp [h4, show i < 16 by omega, hi]
  · by_cases h16 : i < 16 <;> simp [h4, h16, BitVec.getLsbD_of_ge op i (by omega)]

theorem RowMatch.nop (arg : BitVec 16) : RowMatch.Statement (.nop arg) := reqWord_and_low _ _
theorem RowMatch.towire (mask : RelayMask) : RowMatch.Statement (.towire mask) := reqWord_and_low _ _
theorem RowMatch.tological (mask : WireMask) : RowMatch.Statement (.tological mask) :=
  reqWord_and_low _ _
theorem RowMatch.buildrd (arg : BitVec 16) : RowMatch.Statement (.buildrd arg) := reqWord_and_low _ _
theorem RowMatch.buildwr (mask : RelayMask) : RowMatch.Statement (.buildwr mask) :=
  reqWord_and_low _ _
theorem RowMatch.decode (arg : BitVec 16) : RowMatch.Statement (.decode arg) := reqWord_and_low _ _
theorem RowMatch.frameCmdRead : RowMatch.Statement .frameCmdRead := by
  simp [RowMatch.Statement, tableRow, encode, codeMatches]
theorem RowMatch.frameCmdWrite : RowMatch.Statement .frameCmdWrite := by
  simp [RowMatch.Statement, tableRow, encode, codeMatches]
theorem RowMatch.frameCmdErase : RowMatch.Statement .frameCmdErase := by
  simp [RowMatch.Statement, tableRow, encode, codeMatches]
theorem RowMatch.allon : RowMatch.Statement .allon := by
  simp [RowMatch.Statement, tableRow, encode, codeMatches]
theorem RowMatch.alloff : RowMatch.Statement .alloff := by
  simp [RowMatch.Statement, tableRow, encode, codeMatches]

end Sys2Proof.Laws
end

