-- ==== Sys2Proof/Laws/State.lean ====
section
/-! SUPPORT. Laws/State.lean: one lemma per field per state update, so that no proof unfolds an update. -/

namespace Sys2Proof.Machine

@[simp] theorem setIll_lut (b : Bool) (s : State) : (setIll b s).lut = s.lut := rfl
@[simp] theorem setIll_frame (b : Bool) (s : State) : (setIll b s).frame = s.frame := rfl
@[simp] theorem setIll_fsize (b : Bool) (s : State) : (setIll b s).fsize = s.fsize := rfl
@[simp] theorem setIll_mout (b : Bool) (s : State) : (setIll b s).mout = s.mout := rfl
@[simp] theorem setIll_mvalid (b : Bool) (s : State) : (setIll b s).mvalid = s.mvalid := rfl
@[simp] theorem setIll_ill (b : Bool) (s : State) : (setIll b s).ill = b := rfl
@[simp] theorem setIll_respIn (b : Bool) (s : State) : (setIll b s).respIn = s.respIn := rfl
@[simp] theorem setIll_script (b : Bool) (s : State) : (setIll b s).script = s.script := rfl

@[simp] theorem setMvalid_lut (s : State) : (setMvalid s).lut = s.lut := rfl
@[simp] theorem setMvalid_frame (s : State) : (setMvalid s).frame = s.frame := rfl
@[simp] theorem setMvalid_fsize (s : State) : (setMvalid s).fsize = s.fsize := rfl
@[simp] theorem setMvalid_mout (s : State) : (setMvalid s).mout = s.mout := rfl
@[simp] theorem setMvalid_mvalid (s : State) : (setMvalid s).mvalid = true := rfl
@[simp] theorem setMvalid_ill (s : State) : (setMvalid s).ill = s.ill := rfl
@[simp] theorem setMvalid_respIn (s : State) : (setMvalid s).respIn = s.respIn := rfl
@[simp] theorem setMvalid_script (s : State) : (setMvalid s).script = s.script := rfl

@[simp] theorem completeMask_lut (v : BitVec 16) (s : State) : (completeMask v s).lut = s.lut := rfl
@[simp] theorem completeMask_frame (v : BitVec 16) (s : State) : (completeMask v s).frame = s.frame := rfl
@[simp] theorem completeMask_fsize (v : BitVec 16) (s : State) : (completeMask v s).fsize = s.fsize := rfl
@[simp] theorem completeMask_mout (v : BitVec 16) (s : State) : (completeMask v s).mout = v := rfl
@[simp] theorem completeMask_mvalid (v : BitVec 16) (s : State) : (completeMask v s).mvalid = true := rfl
@[simp] theorem completeMask_ill (v : BitVec 16) (s : State) : (completeMask v s).ill = false := rfl
@[simp] theorem completeMask_respIn (v : BitVec 16) (s : State) : (completeMask v s).respIn = s.respIn := rfl
@[simp] theorem completeMask_script (v : BitVec 16) (s : State) : (completeMask v s).script = s.script := rfl

@[simp] theorem completeFrame_lut (m : Memory) (n : BitVec 7) (s : State) : (completeFrame m n s).lut = s.lut := rfl
@[simp] theorem completeFrame_frame (m : Memory) (n : BitVec 7) (s : State) : (completeFrame m n s).frame = m := rfl
@[simp] theorem completeFrame_fsize (m : Memory) (n : BitVec 7) (s : State) : (completeFrame m n s).fsize = n := rfl
@[simp] theorem completeFrame_mout (m : Memory) (n : BitVec 7) (s : State) : (completeFrame m n s).mout = s.mout := rfl
@[simp] theorem completeFrame_mvalid (m : Memory) (n : BitVec 7) (s : State) : (completeFrame m n s).mvalid = s.mvalid := rfl
@[simp] theorem completeFrame_ill (m : Memory) (n : BitVec 7) (s : State) : (completeFrame m n s).ill = false := rfl
@[simp] theorem completeFrame_respIn (m : Memory) (n : BitVec 7) (s : State) : (completeFrame m n s).respIn = s.respIn := rfl
@[simp] theorem completeFrame_script (m : Memory) (n : BitVec 7) (s : State) : (completeFrame m n s).script = s.script := rfl

@[simp] theorem performWrite_lut (mask : RelayMask) (s : State) : (performWrite mask s).lut = s.lut := by
  rw [performWrite, completeFrame_lut]
@[simp] theorem performWrite_frame (mask : RelayMask) (s : State) : (performWrite mask s).frame = buildWriteFrame s.frame (toWire s.lut mask) := by
  rw [performWrite, completeFrame_frame]
@[simp] theorem performWrite_fsize (mask : RelayMask) (s : State) : (performWrite mask s).fsize = writeFrameSize := by
  rw [performWrite, completeFrame_fsize]
@[simp] theorem performWrite_mout (mask : RelayMask) (s : State) : (performWrite mask s).mout = s.mout := by
  rw [performWrite, completeFrame_mout]
@[simp] theorem performWrite_mvalid (mask : RelayMask) (s : State) : (performWrite mask s).mvalid = s.mvalid := by
  rw [performWrite, completeFrame_mvalid]
@[simp] theorem performWrite_ill (mask : RelayMask) (s : State) : (performWrite mask s).ill = false := by
  rw [performWrite, completeFrame_ill]
@[simp] theorem performWrite_respIn (mask : RelayMask) (s : State) : (performWrite mask s).respIn = s.respIn := by
  rw [performWrite, completeFrame_respIn]
@[simp] theorem performWrite_script (mask : RelayMask) (s : State) : (performWrite mask s).script = s.script := by
  rw [performWrite, completeFrame_script]

@[simp] theorem raiseIllegalRequest_lut (s : State) : (raiseIllegalRequest s).lut = s.lut := rfl
@[simp] theorem raiseIllegalRequest_frame (s : State) : (raiseIllegalRequest s).frame = s.frame := rfl
@[simp] theorem raiseIllegalRequest_fsize (s : State) : (raiseIllegalRequest s).fsize = s.fsize := rfl
@[simp] theorem raiseIllegalRequest_mout (s : State) : (raiseIllegalRequest s).mout = s.mout := rfl
@[simp] theorem raiseIllegalRequest_mvalid (s : State) : (raiseIllegalRequest s).mvalid = s.mvalid := rfl
@[simp] theorem raiseIllegalRequest_ill (s : State) : (raiseIllegalRequest s).ill = true := rfl
@[simp] theorem raiseIllegalRequest_respIn (s : State) : (raiseIllegalRequest s).respIn = s.respIn := rfl
@[simp] theorem raiseIllegalRequest_script (s : State) : (raiseIllegalRequest s).script = s.script := rfl

@[simp] theorem resetRegisters_lut (s : State) : (resetRegisters s).lut = s.lut := rfl
@[simp] theorem resetRegisters_frame (s : State) : (resetRegisters s).frame = [] := rfl
@[simp] theorem resetRegisters_fsize (s : State) : (resetRegisters s).fsize = 0#7 := rfl
@[simp] theorem resetRegisters_mout (s : State) : (resetRegisters s).mout = 0x0000#16 := rfl
@[simp] theorem resetRegisters_mvalid (s : State) : (resetRegisters s).mvalid = false := rfl
@[simp] theorem resetRegisters_ill (s : State) : (resetRegisters s).ill = false := rfl
@[simp] theorem resetRegisters_respIn (s : State) : (resetRegisters s).respIn = s.respIn := rfl
@[simp] theorem resetRegisters_script (s : State) : (resetRegisters s).script = s.script := rfl

@[simp] theorem driveResponse_lut (bytes : Vector Byte 64) (s : State) : (driveResponse bytes s).lut = s.lut := rfl
@[simp] theorem driveResponse_frame (bytes : Vector Byte 64) (s : State) : (driveResponse bytes s).frame = s.frame := rfl
@[simp] theorem driveResponse_fsize (bytes : Vector Byte 64) (s : State) : (driveResponse bytes s).fsize = s.fsize := rfl
@[simp] theorem driveResponse_mout (bytes : Vector Byte 64) (s : State) : (driveResponse bytes s).mout = s.mout := rfl
@[simp] theorem driveResponse_mvalid (bytes : Vector Byte 64) (s : State) : (driveResponse bytes s).mvalid = s.mvalid := rfl
@[simp] theorem driveResponse_ill (bytes : Vector Byte 64) (s : State) : (driveResponse bytes s).ill = s.ill := rfl
@[simp] theorem driveResponse_respIn (bytes : Vector Byte 64) (s : State) : (driveResponse bytes s).respIn = bytes := rfl
@[simp] theorem driveResponse_script (bytes : Vector Byte 64) (s : State) : (driveResponse bytes s).script = s.script := rfl

@[simp] theorem presentRequest_lut (w : ReqWord) (s : State) : (presentRequest w s).lut = s.lut := rfl
@[simp] theorem presentRequest_frame (w : ReqWord) (s : State) : (presentRequest w s).frame = s.frame := rfl
@[simp] theorem presentRequest_fsize (w : ReqWord) (s : State) : (presentRequest w s).fsize = s.fsize := rfl
@[simp] theorem presentRequest_mout (w : ReqWord) (s : State) : (presentRequest w s).mout = s.mout := rfl
@[simp] theorem presentRequest_mvalid (w : ReqWord) (s : State) : (presentRequest w s).mvalid = s.mvalid := rfl
@[simp] theorem presentRequest_ill (w : ReqWord) (s : State) : (presentRequest w s).ill = s.ill := rfl
@[simp] theorem presentRequest_respIn (w : ReqWord) (s : State) : (presentRequest w s).respIn = s.respIn := rfl
@[simp] theorem presentRequest_script (w : ReqWord) (s : State) : (presentRequest w s).script = .request w :: s.script := rfl

end Sys2Proof.Machine
end

