-- ==== Sys2Proof/Laws/Step.lean ====
section
/-! SUPPORT. Laws/Step.lean: what a request can do, what each host event makes a step do, and the one
inversion lemma of a step. -/

namespace Sys2Proof.Machine

@[simp] theorem exec_nop (arg : BitVec 16) (s : State) :
    exec (.nop arg) s = .next (setIll false s) := rfl
@[simp] theorem exec_towire (mask : RelayMask) (s : State) :
    exec (.towire mask) s = .next (completeMask (toWire s.lut mask) s) := rfl
@[simp] theorem exec_tological (mask : WireMask) (s : State) :
    exec (.tological mask) s = .next (completeMask (toLogical s.lut mask) s) := rfl
@[simp] theorem exec_buildrd (arg : BitVec 16) (s : State) :
    exec (.buildrd arg) s = .next (completeFrame (buildReadFrame s.frame) readFrameSize s) := rfl
@[simp] theorem exec_buildwr (mask : RelayMask) (s : State) :
    exec (.buildwr mask) s = .next (performWrite mask s) := rfl
@[simp] theorem exec_decode (arg : BitVec 16) (s : State) :
    exec (.decode arg) s = .next (completeMask (toLogical s.lut (responseReg s.respIn)) s) := rfl
@[simp] theorem exec_frameCmdRead (s : State) :
    exec .frameCmdRead s = .next (raiseIllegalRequest s) := rfl
@[simp] theorem exec_frameCmdWrite (s : State) :
    exec .frameCmdWrite s = .next (raiseIllegalRequest s) := rfl
@[simp] theorem exec_frameCmdErase (s : State) :
    exec .frameCmdErase s = .next (raiseIllegalRequest s) := rfl
@[simp] theorem exec_allon (s : State) : exec .allon s = .next (performWrite 0xFFFF#16 s) := rfl
@[simp] theorem exec_alloff (s : State) : exec .alloff s = .next (performWrite 0x0000#16 s) := rfl

/-- Every instruction answers a next state, and it is one of five: a mask written, a read frame
built, a write frame built, ILL cleared, ILL set. -/
theorem exec_cases (i : Instr) (s : State) :
    ∃ t, exec i s = .next t ∧
      ((∃ v, t = completeMask v s) ∨ t = completeFrame (buildReadFrame s.frame) readFrameSize s ∨
        (∃ mask, t = performWrite mask s) ∨ t = setIll false s ∨ t = raiseIllegalRequest s) := by
  cases i
  case nop => exact ⟨_, rfl, .inr (.inr (.inr (.inl rfl)))⟩
  case towire => exact ⟨_, rfl, .inl ⟨_, rfl⟩⟩
  case tological => exact ⟨_, rfl, .inl ⟨_, rfl⟩⟩
  case buildrd => exact ⟨_, rfl, .inr (.inl rfl)⟩
  case buildwr => exact ⟨_, rfl, .inr (.inr (.inl ⟨_, rfl⟩))⟩
  case decode => exact ⟨_, rfl, .inl ⟨_, rfl⟩⟩
  case allon => exact ⟨_, rfl, .inr (.inr (.inl ⟨_, rfl⟩))⟩
  case alloff => exact ⟨_, rfl, .inr (.inr (.inl ⟨_, rfl⟩))⟩
  all_goals exact ⟨_, rfl, .inr (.inr (.inr (.inr rfl)))⟩

/-- No instruction reads or changes what the host does next. -/
theorem exec_ignores_script (i : Instr) (s : State) (later : List HostEvent) :
    ∃ t, exec i s = .next t ∧ t.script = s.script ∧
      exec i { s with script := later } = .next { t with script := later } := by
  cases i <;> exact ⟨_, rfl, rfl, rfl⟩

/-- What `exec_cases` says, of a whole request, legal or not (60_exceptions.md R130, R131). -/
theorem performRequest_cases (w : ReqWord) (s : State) :
    ∃ t, performRequest w s = .next t ∧
      ((∃ v, t = completeMask v s) ∨ t = completeFrame (buildReadFrame s.frame) readFrameSize s ∨
        (∃ mask, t = performWrite mask s) ∨ t = setIll false s ∨ t = raiseIllegalRequest s) := by
  cases h : decode (.req32 w) with
  | ok i =>
    obtain ⟨t, ht, hc⟩ := exec_cases i s
    exact ⟨t, by simp [performRequest, h, ht], hc⟩
  | error r => exact ⟨raiseIllegalRequest s, by simp [performRequest, h], .inr (.inr (.inr (.inr rfl)))⟩

theorem step_cons {s : State} {e : HostEvent} {rest : List HostEvent} (h : s.script = e :: rest) :
    step s = performEvent e { s with script := rest } := by
  simp [step, performNext, h]

theorem afterRead_next {α : Type} {r : Except Fault α} {s t : State}
    (h : afterRead r s = .next t) : t = s ∧ ∃ v, r = .ok v := by
  cases r with
  | ok v => simp only [afterRead, Host.Outcome.next.injEq] at h; exact ⟨h.symm, v, rfl⟩
  | error f => simp [afterRead] at h

/-- What a step that answers a next state has done: nothing with no event left, or one event, with
the rest of the script kept. -/
theorem step_next_cases {s t : State} (h : step s = .next t) :
    (s.script = [] ∧ t = s) ∨
    ∃ e rest, s.script = e :: rest ∧
      ((∃ w, e = .request w ∧ performRequest w { s with script := rest } = .next t) ∨
       (∃ bytes, e = .supplyResponse bytes ∧ t = driveResponse bytes { s with script := rest }) ∨
       (e = .reset ∧ t = resetRegisters { s with script := rest }) ∨
       ((e = .takeFrame ∨ (∃ x, e = .readFrameByte x) ∨ e = .takeMask ∨ e = .readStatus) ∧
          t = { s with script := rest })) := by
  cases hs : s.script with
  | nil =>
    simp only [step, performNext, hs, Host.Outcome.next.injEq] at h
    exact .inl ⟨rfl, h.symm⟩
  | cons e rest =>
    rw [step_cons hs] at h
    refine .inr ⟨e, rest, rfl, ?_⟩
    cases e with
    | request w => exact .inl ⟨w, rfl, h⟩
    | supplyResponse bytes =>
      simp only [performEvent, Host.Outcome.next.injEq] at h
      exact .inr (.inl ⟨bytes, rfl, h.symm⟩)
    | reset =>
      simp only [performEvent, Host.Outcome.next.injEq] at h
      exact .inr (.inr (.inl ⟨rfl, h.symm⟩))
    | takeFrame => exact .inr (.inr (.inr ⟨.inl rfl, (afterRead_next h).1⟩))
    | readFrameByte x => exact .inr (.inr (.inr ⟨.inr (.inl ⟨x, rfl⟩), (afterRead_next h).1⟩))
    | takeMask => exact .inr (.inr (.inr ⟨.inr (.inr (.inl rfl)), (afterRead_next h).1⟩))
    | readStatus =>
      simp only [performEvent, Host.Outcome.next.injEq] at h
      exact .inr (.inr (.inr ⟨.inr (.inr (.inr rfl)), h.symm⟩))
    | secondHost => simp [performEvent] at h

end Sys2Proof.Machine
end

