-- ==== Sys2Proof/Machine/HostProgram.lean ====
section
/-! DEFINITION. Machine/HostProgram.lean: the host scripts of the source's RelayController operations
(spec/60_exceptions.md R139): which requests and port accesses they make, and in which order.

The RelayController itself is outside the block (00_scope.md R5); a response is whatever the
transport gave the host. -/

namespace Sys2Proof.Machine

/-- `getState()`: build a read frame, transmit it, supply the response, decode it, take the mask. -/
def getStateScript (response : Vector Byte 64) : List HostEvent :=
  [.request (reqWord 0x3#4 0#16), .takeFrame, .supplyResponse response,
   .request (reqWord 0x5#4 0#16), .takeMask]

/-- `setState(m)`: build a write frame and transmit it. -/
def setStateScript (m : RelayMask) : List HostEvent :=
  [.request (reqWord 0x4#4 m), .takeFrame]

/-- The host's bit update of `setRelay`, for the relays 1 to 16; a number outside them is turned away
before any frame is built (60_exceptions.md R136, R139). -/
def updateRelay (x : RelayMask) (r : Nat) (on : Bool) : Option RelayMask :=
  if 1 ≤ r ∧ r ≤ 16 then
    some (if on then x ||| (1#16 <<< (r - 1)) else x &&& ~~~(1#16 <<< (r - 1)))
  else none

/-- `setRelay(r, on)`: read the state, update one bit, write it, read the state again. `before` and
`after` are the two responses. -/
def setRelayScript (lut : Lut) (r : Nat) (on : Bool) (before after : Vector Byte 64) :
    Option (List HostEvent) :=
  (updateRelay (toLogical lut (responseReg before)) r on).map fun x =>
    getStateScript before ++ setStateScript x ++ getStateScript after

/-- `allOn()`. -/
def allOnScript : List HostEvent := setStateScript 0xFFFF#16

/-- `allOff()`. -/
def allOffScript : List HostEvent := setStateScript 0x0000#16

end Sys2Proof.Machine
end

