-- ==== Sys2Proof/Tests/Slice0.lean ====
section
/-! SUPPORT. Tests/Slice0.lean: small tests, each about one step, and a witness for the hypotheses of
every statement that has some. Expected values are those of spec/95_test_vectors.md (named by its
row) or are written out from the encoding rules. The lookup table is that file's illustrative LUT_EX;
nothing says that it is the device's. -/

-- one theorem after the other: many evaluations at once ask for many threads
set_option Elab.async false

namespace Sys2Proof.Machine.Tests

/-- LUT_EX of 95_test_vectors.md §0. -/
def exTable : LutTable :=
  #v[0x0008#16, 0x0100#16, 0x2000#16, 0x0004#16, 0x0080#16, 0x1000#16, 0x0002#16, 0x0040#16,
     0x0800#16, 0x0001#16, 0x0020#16, 0x0400#16, 0x8000#16, 0x0010#16, 0x0200#16, 0x4000#16]

theorem test_exTable_ok : lutOk exTable = true := by decide +kernel

/-- A table with one entry twice: not a bijection. -/
def badTable : LutTable := exTable.set 0 0x0100#16

theorem test_badTable_not_ok : lutOk badTable = false := by decide +kernel

/-- A block with LUT_EX after reset, and what the host does next. -/
def block (events : List HostEvent) : State :=
  { State.reset with lut := ⟨exTable, test_exTable_ok⟩, script := events }

/-- The same block after a reset and an illegal request. -/
def illBlock (events : List HostEvent) : State := { block events with ill := true }

/-- The block with bytes 2 and 3 of a response, and 0xFF elsewhere. -/
def withReg (lo hi : Byte) (s : State) : State :=
  { s with respIn := ((Vector.replicate 64 0xFF#8).set 2 lo).set 3 hi }

/-- The state a step or an instruction answers. -/
def after (o : Host.Outcome State Fault Refusal) : Option State :=
  match o with
  | .next t => some t
  | .fault _ => none
  | .refused _ => none

/-- The fault a step stops with. -/
def faultOf (o : Host.Outcome State Fault Refusal) : Option Fault :=
  match o with
  | .next _ => none
  | .fault f => some f
  | .refused _ => none

/-- The bytes at offsets `a` to `a + n − 1`. -/
def bytes (m : Memory) (a n : Nat) : List Byte := (List.range' a n).map (readByte m)

/-! ### Decoding: words written out from 30_encoding.md R61, R63, R67, R78 -/

-- ARG 1111111111111111, RSV 000000000000, OP 0000
theorem test_decode_nop : decodeTableWord 32 0xFFFF0000 = some (.nop 0xFFFF#16) := by decide
-- R79's example
theorem test_decode_towire : decodeTableWord 32 0x00040001 = some (.towire 0x0004#16) := by decide
theorem test_decode_tological : decodeTableWord 32 0xB0810002 = some (.tological 0xB081#16) := by decide
theorem test_decode_buildrd : decodeTableWord 32 0xABCD0003 = some (.buildrd 0xABCD#16) := by decide
theorem test_decode_buildwr : decodeTableWord 32 0xA5A50004 = some (.buildwr 0xA5A5#16) := by decide
theorem test_decode_decode : decodeTableWord 32 0x00000005 = some (.decode 0x0000#16) := by decide
theorem test_decode_allon : decodeTableWord 32 0xFFFF0004 = some .allon := by decide
theorem test_decode_alloff : decodeTableWord 32 0x00000004 = some .alloff := by decide
theorem test_decode_frameCmdRead : decodeTableWord 8 0xD2 = some .frameCmdRead := by decide
theorem test_decode_frameCmdWrite : decodeTableWord 8 0xC3 = some .frameCmdWrite := by decide
theorem test_decode_frameCmdErase : decodeTableWord 8 0x71 = some .frameCmdErase := by decide
-- EX2, EX3, EX4, EX5
theorem test_decode_reserved :
    decode (.req32 0x00000006#32) = .error (.reservedOp 0x6#4) ∧
    decode (.req32 0x0000000F#32) = .error (.reservedOp 0xF#4) ∧
    decode (.req32 0x00010011#32) = .error .reservedBitsSet ∧
    decode (.req32 0x00008000#32) = .error .reservedBitsSet := by decide

/-! ### Well-formedness: the check refuses the two masks that have a row of their own -/

theorem test_wellFormed_refuses_allon_spelling : Instr.wellFormed (.buildwr 0xFFFF#16) = false := by decide
theorem test_wellFormed_refuses_alloff_spelling : Instr.wellFormed (.buildwr 0x0000#16) = false := by decide

/-! ### One step of each instruction -/

-- EX6, EX7
theorem test_nop_clears_ill : (after (step (illBlock [.request 0xFFFF0000#32]))).map (·.ill) = some false := by
  decide +kernel
-- BM11
theorem test_towire_mixed :
    (after (step (block [.request 0x12340001#32]))).map (fun t => (t.mout, statusWord t)) =
      some (0xB081#16, 0x00000002#32) := by decide +kernel
-- BM19: the direction matters
theorem test_tological_direction :
    (after (step (block [.request 0x12340002#32]))).map (·.mout) = some 0x6428#16 := by decide +kernel
-- DC6: bytes other than 2 and 3 are not looked at
theorem test_decode_ignores_other_bytes :
    (after (step (withReg 0x08#8 0x40#8 (block [.request 0x00000005#32])))).map (·.mout) = some 0x8001#16 := by
  decide +kernel
-- RD2
theorem test_buildrd_frame :
    (after (step (block [.request 0xABCD0003#32]))).map (fun t => (bytes t.frame 0 14, t.fsize)) =
      some ([0xD2#8, 0x0E#8, 0x11#8, 0x11#8, 0x11#8, 0x11#8, 0x11#8, 0x11#8, 0x11#8, 0x11#8,
        0x48#8, 0x49#8, 0x44#8, 0x43#8], 64#7) := by decide +kernel
-- W7, and its padding
theorem test_buildwr_frame :
    (after (step (block [.request 0xA5A50004#32]))).map (fun t => (bytes t.frame 0 20, t.fsize)) =
      some ([0xC3#8, 0x0E#8, 0x78#8, 0x78#8, 0x00#8, 0x00#8, 0x00#8, 0x00#8, 0x00#8, 0x00#8,
        0x48#8, 0x49#8, 0x44#8, 0x43#8, 0xD9#8, 0x02#8, 0x00#8, 0x00#8, 0x00#8, 0x00#8], 65#7) := by
  decide +kernel
-- W8: the low byte of `reg` comes first
theorem test_buildwr_byte_order :
    (after (step (block [.request 0x12340004#32]))).map (fun t => (bytes t.frame 2 2, bytes t.frame 14 4)) =
      some ([0x81#8, 0xB0#8], [0x1A#8, 0x03#8, 0x00#8, 0x00#8]) := by decide +kernel
-- W2, with SR as in P3
theorem test_allon_frame :
    (after (step (block [.request 0xFFFF0004#32]))).map (fun t => (bytes t.frame 14 2, statusWord t)) =
      some ([0xE7#8, 0x03#8], 0x00004100#32) := by decide +kernel
-- W1
theorem test_alloff_frame :
    (after (step (block [.request 0x00000004#32]))).map (fun t => bytes t.frame 14 2) =
      some [0xE9#8, 0x01#8] := by decide +kernel
-- R109: a request for an erase frame is illegal
theorem test_frameCmd_codes_set_ill :
    (after (step ((block []).withFetchWord 8 0xD2))).map (·.ill) = some true ∧
    (after (step ((block []).withFetchWord 8 0xC3))).map (·.ill) = some true ∧
    (after (step ((block []).withFetchWord 8 0x71))).map (·.ill) = some true := by decide +kernel
-- EX4
theorem test_reserved_bits_leave_mout :
    (after (step (block [.request 0x00010011#32]))).map (fun t => (t.ill, t.mout, t.mvalid)) =
      some (true, 0x0000#16, false) := by decide +kernel

/-! ### The host's side -/

-- EX8, EX9
theorem test_reads_after_reset_fault :
    faultOf (step (block [.takeMask])) = some .maskNotValid ∧
    faultOf (step (block [.takeFrame])) = some .frameNotBuilt := by decide +kernel
-- 60_exceptions.md R138: the host takes exactly FSIZE bytes, from offset 0
theorem test_takeFrame_bytes :
    (after (step (block [.request 0x80010004#32]))).map (fun t => (hostTakeFrame t).toOption.map
      (fun l => (l.length, l.take 4))) = some (some (65, [0xC3#8, 0x0E#8, 0x08#8, 0x40#8])) := by
  decide +kernel
-- 10_state.md R23
theorem test_powerOn_refuses : powerOn badTable = .refused .lutNotOk := by
  simp [powerOn, test_badTable_not_ok]
-- source S7, 60_exceptions.md R139
theorem test_updateRelay :
    updateRelay 0x0000#16 3 true = some 0x0004#16 ∧ updateRelay 0x0004#16 3 false = some 0x0000#16 ∧
    updateRelay 0x0000#16 17 true = none := by decide

/-! ### Every table row's word runs as the first instruction after reset -/

theorem test_rows_run_after_reset :
    ([(32, 0x00000000), (32, 0x00000001), (32, 0x00000002), (32, 0x00000003), (32, 0x00000004),
      (32, 0x00000005), (8, 0xD2), (8, 0xC3), (8, 0x71), (32, 0xFFFF0004)] : List (Nat × Nat)).all
      (fun r => (after (step (State.reset.withFetchWord r.1 r.2))).isSome) = true := by decide +kernel

/-! ### Witnesses: the hypotheses of each statement are met together

Most hypotheses say only which event is next; `block [e]` meets them. -/

theorem test_witness_DecodeInvertsEncode :
    Instr.wellFormed (.buildwr 0x0001#16) = true ∧ Instr.wellFormed (.towire 0xFFFF#16) = true := by decide

theorem test_witness_DecodedCodesReencode :
    decode (.req32 0xFFFE0004#32) = .ok (.buildwr 0xFFFE#16) ∧
    decode (.frameCmd8 0xD2#8) = .ok .frameCmdRead := by decide

theorem test_witness_OperationMapOfOp :
    ∀ op : BitVec 4, (reqWord op 0xFFFF#16).extractLsb' 4 12 = 0#12 ∧
      (reqWord op 0xFFFF#16).extractLsb' 0 4 = op := by decide

theorem test_witness_FrameCommandCodesAreIllegalRequests :
    (block [.request 0x000000D2#32]).script = .request 0x000000D2#32 :: [] ∧
    decode (.frameCmd8 ((0x000000D2#32).extractLsb' 0 8)) = .ok .frameCmdRead ∧
    decode (.frameCmd8 ((0xFFFFFFC3#32).extractLsb' 0 8)) = .ok .frameCmdWrite ∧
    decode (.frameCmd8 ((0x00001071#32).extractLsb' 0 8)) = .ok .frameCmdErase := ⟨rfl, by decide⟩

theorem test_witness_StepRunsTheDecodedRequest :
    (block [.request 0x00040001#32]).script = .request 0x00040001#32 :: [] ∧
    decode (.req32 0x00040001#32) = .ok (.towire 0x0004#16) ∧
    decodeTableWord 32 0xFFFF0004 = some .allon := ⟨rfl, by decide⟩

-- OP 6 and OP 5, RSV 1 and RSV 0: both clauses at their edges; also for IllIsTheVerdictOfEachRequest
theorem test_witness_IllegalRequestsOnlySetIll :
    (block [.request 0x00000006#32]).script = .request 0x00000006#32 :: [] ∧
    6 ≤ ((0x00000006#32).extractLsb' 0 4).toNat ∧ (0x00000010#32).extractLsb' 4 12 ≠ 0#12 ∧
    ¬ (6 ≤ ((0xFFFF0005#32).extractLsb' 0 4).toNat ∨ (0xFFFF0005#32).extractLsb' 4 12 ≠ 0#12) :=
  ⟨rfl, by decide⟩

theorem test_witness_IllIsTheVerdictOfEachRequest :
    (illBlock [.request 0x00000000#32]).script = .request 0x00000000#32 :: [] := rfl

theorem test_witness_NopClearsOnlyIll :
    (block [.request ((0xFFFF#16).setWidth 32 <<< 16)]).script =
      .request ((0xFFFF#16).setWidth 32 <<< 16) :: [] := rfl

theorem test_witness_TowireWritesTheWireMask :
    (block [.request (((0x0004#16).setWidth 32 <<< 16) ||| 0x00000001#32)]).script =
      .request (((0x0004#16).setWidth 32 <<< 16) ||| 0x00000001#32) :: [] ∧ 0 < 16 ∧ 15 < 16 :=
  ⟨rfl, by decide⟩

theorem test_witness_TologicalWritesTheRelayMask :
    (block [.request (((0x2000#16).setWidth 32 <<< 16) ||| 0x00000002#32)]).script =
      .request (((0x2000#16).setWidth 32 <<< 16) ||| 0x00000002#32) :: [] ∧ 0 < 16 ∧ 15 < 16 :=
  ⟨rfl, by decide⟩

theorem test_witness_DecodeWritesTheResponseMask :
    (block [.request (((0xFFFF#16).setWidth 32 <<< 16) ||| 0x00000005#32)]).script =
      .request (((0xFFFF#16).setWidth 32 <<< 16) ||| 0x00000005#32) :: [] := rfl

theorem test_witness_BuildrdBuildsTheReadFrame :
    (block [.request (((0xFFFF#16).setWidth 32 <<< 16) ||| 0x00000003#32)]).script =
      .request (((0xFFFF#16).setWidth 32 <<< 16) ||| 0x00000003#32) :: [] := rfl

theorem test_witness_BuildwrBuildsTheWriteFrame :
    (block [.request (((0xFFFF#16).setWidth 32 <<< 16) ||| 0x00000004#32)]).script =
      .request (((0xFFFF#16).setWidth 32 <<< 16) ||| 0x00000004#32) :: [] := rfl

-- no instruction leaves a new 0x71 in FRAME[0], so the hypothesis is met where one stood before
theorem test_witness_NoOperationBuildsAnEraseFrame :
    exec (.nop 0#16) { block [] with frame := [(0, 0x71#8)] } =
      .next { block [] with frame := [(0, 0x71#8)], ill := false } ∧
    readByte [(0, 0x71#8)] 0 = 0x71#8 ∧ (0x00000071#32).extractLsb' 0 8 = 0x71#8 := ⟨rfl, by decide⟩

-- relays 1 and 16, and the position 3 of LUT_EX's entry 0
theorem test_witness_WirePositionOfEachRelay :
    lutEntry ⟨exTable, test_exTable_ok⟩ 0 = 1#16 <<< 3 ∧ 3 < 16 ∧ 1 ≤ 1 ∧ 16 ≤ 16 := by decide +kernel

theorem test_witness_PowerOnChecksTheTable : lutOk badTable = false ∧ lutOk exTable = true :=
  ⟨test_badTable_not_ok, test_exTable_ok⟩

theorem test_witness_LutIsReadOnly :
    step (block [.readStatus]) = .next (block []) ∧
    (block [.request 0x00000003#32]).script = .request 0x00000003#32 :: [] ∧
    ¬ ((0x00000003#32).extractLsb' 4 12 = 0#12 ∧ ((0x00000003#32).extractLsb' 0 4 = 1#4 ∨
      (0x00000003#32).extractLsb' 0 4 = 2#4 ∨ (0x00000003#32).extractLsb' 0 4 = 4#4 ∨
      (0x00000003#32).extractLsb' 0 4 = 5#4)) := ⟨rfl, rfl, by decide⟩

-- each event once; a legal and an illegal word; and a step that answers a next state with later events
theorem test_witness_EventsArePerformedInOrder :
    ((block [.request 0x00040001#32]).script = .request 0x00040001#32 :: [] ∧
      decode (.req32 0x00040001#32) = .ok (.towire 0x0004#16)) ∧
    ((block [.request 0x00000010#32]).script = .request 0x00000010#32 :: [] ∧
      decode (.req32 0x00000010#32) = .error .reservedBitsSet) ∧
    (block [.supplyResponse (Vector.replicate 64 0xFF#8)]).script =
      .supplyResponse (Vector.replicate 64 0xFF#8) :: [] ∧
    (block [.takeFrame]).script = .takeFrame :: [] ∧
    (block [.readFrameByte 64]).script = .readFrameByte 64 :: [] ∧
    (block [.readFrameByte 65]).script = .readFrameByte 65 :: [] ∧
    (block [.takeMask]).script = .takeMask :: [] ∧ (block [.readStatus]).script = .readStatus :: [] ∧
    (block [.reset]).script = .reset :: [] ∧ (block [.secondHost]).script = .secondHost :: [] ∧
    (block [.readStatus, .reset]).script = .readStatus :: [.reset] ∧
    step (block [.readStatus, .reset]) = .next (block [.reset]) :=
  ⟨⟨rfl, by decide⟩, ⟨rfl, by decide⟩, rfl, rfl, rfl, rfl, rfl, rfl, rfl, rfl, rfl, rfl⟩

theorem test_witness_ToWireMovesEachBit : 0 < 16 ∧ 15 < 16 := by decide

theorem test_witness_ToLogicalMovesEachBit : 0 < 16 ∧ 15 < 16 := by decide

theorem test_witness_BitMapperLaws : 0 < 16 ∧ 15 < 16 := by decide

-- each width at the last offset it fits
theorem test_witness_MemWriteIsLittleEndian :
    (∀ n, n = 1 ∨ n = 2 ∨ n = 4 → (65 - n) + n ≤ 65) ∧ 3 < 4 ∧ 60 < 61 ∧ 61 + 4 ≤ 65 := by
  refine ⟨fun n hn => ?_, by decide⟩
  omega

theorem test_witness_MemReadIsLittleEndian : 63 + 1 ≤ 64 ∧ 62 + 2 ≤ 64 ∧ 60 + 4 ≤ 64 := by decide

theorem test_witness_CanonicalFrameIsItsBytes :
    Memory.wf [(0, 0xC3#8), (64, 0x01#8)] = true ∧
    ∀ x < 65, readByte [(0, 0xC3#8), (64, 0x01#8)] x = readByte [(0, 0xC3#8), (64, 0x01#8)] x :=
  ⟨by decide, fun _ _ => rfl⟩

theorem test_witness_WriteChecksumIsTheByteSum :
    ∀ x < 14, readByte [(3, 0x20#8)] x = readByte [(3, 0x20#8), (14, 0xFF#8)] x := by decide

theorem test_witness_WriteChecksumBounds :
    4 ≤ 4 ∧ 9 ≤ 9 ∧ (0x0001#16 = 1#16 <<< 0 ∧ 0 < 16) ∧ (0x8000#16 = 1#16 <<< 15 ∧ 15 < 16) := by decide

theorem test_witness_DecodeReadsOnlyTheRegBytes :
    (withReg 0x81#8 0xB0#8 (block [])).respIn[2] =
      (((Vector.replicate 64 0x00#8).set 2 0x81#8).set 3 0xB0#8)[2] ∧
    (withReg 0x81#8 0xB0#8 (block [])).respIn[3] =
      (((Vector.replicate 64 0x00#8).set 2 0x81#8).set 3 0xB0#8)[3] := by decide +kernel

theorem test_witness_ResponseIsSampledOnlyByDecode :
    (block [.request 0x00000004#32]).script = .request 0x00000004#32 :: [] ∧
    ¬ ((0x00000004#32).extractLsb' 0 4 = 5#4 ∧ (0x00000004#32).extractLsb' 4 12 = 0#12) ∧
    ¬ ((0x00000015#32).extractLsb' 0 4 = 5#4 ∧ (0x00000015#32).extractLsb' 4 12 = 0#12) ∧
    (block [.supplyResponse (Vector.replicate 64 0xFF#8)]).script =
      .supplyResponse (Vector.replicate 64 0xFF#8) :: [] := ⟨rfl, by decide, by decide, rfl⟩

theorem test_witness_ResultsDependOnInputsAlone :
    (block []).lut = (illBlock [.reset]).lut ∧ (block []).respIn = (illBlock [.reset]).respIn ∧
    isMaskOp (.decode 0#16) = true ∧ isBuildOp (.buildrd 0#16) = true := ⟨rfl, rfl, rfl, rfl⟩

theorem test_witness_RequestsOverwriteOnlyTheirResults :
    isBuildOp (.decode 0#16) = false ∧ isMaskOp .allon = false := by decide

theorem test_witness_MvalidGuardsMout :
    (step { block [.reset] with mvalid := true } = .next (block []) ∧
      { block [.reset] with mvalid := true }.mvalid = true ∧ (block []).mvalid = false) ∧
    (block [.takeMask]).script = .takeMask :: [] ∧ (block [.takeMask]).mvalid = false ∧
    { block [.takeMask] with mvalid := true }.mvalid = true := ⟨⟨rfl, rfl, rfl⟩, rfl, rfl, rfl⟩

theorem test_witness_OnlyBuildsAndResetWriteFrame :
    step { block [.reset] with frame := [(0, 0xC3#8)] } = .next (block []) ∧
    (block []).frame ≠ { block [.reset] with frame := [(0, 0xC3#8)] }.frame := ⟨rfl, by decide +kernel⟩

-- FSIZE 0 and 64, the last offset that exists and the first that does not
theorem test_witness_FrameReadsNeedABuild :
    (block [.takeFrame]).script = .takeFrame :: [] ∧ (block [.takeFrame]).fsize = 0#7 ∧
    { block [.takeFrame] with fsize := 64#7 }.fsize ≠ 0#7 ∧
    (block [.readFrameByte 64]).script = .readFrameByte 64 :: [] ∧
    { block [.readFrameByte 64] with fsize := 64#7 }.fsize ≠ 0#7 ∧ 64 < 65 ∧
    { block [.readFrameByte 65] with fsize := 65#7 }.fsize ≠ 0#7 ∧ 65 ≤ 65 :=
  ⟨rfl, rfl, by decide +kernel, rfl, by decide +kernel⟩

/-- The block after BUILDWR #0x0004, with the frame of W5. -/
def builtBlock (events : List HostEvent) : State := performWrite 0x0004#16 (block events)

theorem builtBlock_inv (events : List HostEvent) : (builtBlock events).Inv := by
  refine ⟨?_, .inr (.inr ⟨rfl, 0x0004#16, ?_⟩), fun _ => rfl⟩
  · show Memory.wf (buildWriteFrame [] (toWire ⟨exTable, test_exTable_ok⟩ 0x0004#16)) = true
    decide +kernel
  · show ∀ x < 65, readByte (buildWriteFrame [] (toWire ⟨exTable, test_exTable_ok⟩ 0x0004#16)) x =
      (writeFrameImage (toWire ⟨exTable, test_exTable_ok⟩ 0x0004#16)).getD x 0x00#8
    decide +kernel

theorem test_witness_TakenFrameMatchesItsCommand :
    (builtBlock []).Inv ∧ (builtBlock []).fsize ≠ 0#7 := ⟨builtBlock_inv [], by decide +kernel⟩

theorem test_witness_StatusWordLayout :
    (builtBlock []).Inv ∧ (block [.readStatus]).script = .readStatus :: [] := ⟨builtBlock_inv [], rfl⟩

theorem test_witness_ReadsHaveNoSideEffect :
    (block [.readStatus]).script = .readStatus :: [] ∧ isHostRead .readStatus = true ∧
    step (block [.readStatus]) = .next (block []) ∧
    (block [.request 0x00000005#32]).script = .request 0x00000005#32 :: [] := ⟨rfl, rfl, rfl, rfl⟩

theorem test_witness_SecondHostIsRefused : (block [.secondHost]).script = .secondHost :: [] := rfl

theorem test_witness_IdleBlockStays : (block []).script = [] := rfl

theorem test_witness_ResetLeavesTheResetValues : (illBlock [.reset]).script = .reset :: [] := rfl

theorem test_witness_FsizeHoldsOnlyFrameLengths :
    step (block [.readStatus]) = .next (block []) ∧ (block [.readStatus]).fsize = 0#7 := ⟨rfl, rfl⟩

theorem test_witness_StepKeepsTheInvariant :
    (builtBlock [.readStatus]).Inv ∧ step (builtBlock [.readStatus]) = .next (builtBlock []) :=
  ⟨builtBlock_inv _, rfl⟩

end Sys2Proof.Machine.Tests
end

section
/-! SUPPORT. The decoder's map from request words to instructions, what a step can change, the bits of SR, and the
positions of a lookup table: the layer under the statements of 10_state.md. -/

namespace Sys2Proof

/-! ### The decoder on request words -/

/-- The six values of OP that name an operation (30_encoding.md R63, R64). -/
theorem legal_op_cases : ∀ op : BitVec 4, op.toNat < 6 →
    op = 0#4 ∨ op = 1#4 ∨ op = 2#4 ∨ op = 3#4 ∨ op = 4#4 ∨ op = 5#4 := by decide

theorem decodeOp_of_six_le {op : BitVec 4} (h : 6 ≤ op.toNat) (arg : BitVec 16) :
    decodeOp op arg = .error (.reservedOp op) := by
  unfold decodeOp
  split
  case h_7 => rfl
  all_goals omega

theorem decode_req32_of_rsv_zero {w : ReqWord} (h : reqRsv w = 0#12) :
    decode (.req32 w) = decodeOp (reqOp w) (reqArg w) := if_pos h

theorem decode_req32_of_rsv_ne {w : ReqWord} (h : reqRsv w ≠ 0#12) :
    decode (.req32 w) = .error .reservedBitsSet := if_neg h

/-- The rows of the operation map (30_encoding.md R63) that a word read as an instruction can be. -/
theorem decode_req32_ok_cases {w : ReqWord} {i : Instr} (h : decode (.req32 w) = .ok i) :
    reqRsv w = 0#12 ∧
      (reqOp w = 0#4 ∧ i = .nop (reqArg w) ∨ reqOp w = 1#4 ∧ i = .towire (reqArg w) ∨
       reqOp w = 2#4 ∧ i = .tological (reqArg w) ∨ reqOp w = 3#4 ∧ i = .buildrd (reqArg w) ∨
       reqOp w = 4#4 ∧ i = spellWrite (reqArg w) ∨ reqOp w = 5#4 ∧ i = .decode (reqArg w)) := by
  by_cases hrsv : reqRsv w = 0#12
  · rw [decode_req32_of_rsv_zero hrsv] at h
    by_cases hlt : (reqOp w).toNat < 6
    · rcases legal_op_cases _ hlt with hop | hop | hop | hop | hop | hop
      all_goals
        rw [hop] at h
        simp [hrsv, hop, (Except.ok.inj h).symm]
    · simp [decodeOp_of_six_le (Nat.le_of_not_lt hlt)] at h
  · simp [decode_req32_of_rsv_ne hrsv] at h

theorem exists_decode_req32_ok {w : ReqWord} (hrsv : reqRsv w = 0#12) (hop : (reqOp w).toNat < 6) :
    ∃ i, decode (.req32 w) = .ok i := by
  rw [decode_req32_of_rsv_zero hrsv]
  rcases legal_op_cases _ hop with h | h | h | h | h | h
  all_goals exact ⟨_, by rw [h]; rfl⟩

namespace Machine

theorem illegalWord_eq_false_iff (w : ReqWord) :
    illegalWord w = false ↔ reqRsv w = 0#12 ∧ (reqOp w).toNat < 6 := by
  simp [illegalWord, reqRsv, reqOp, and_comm]

/-- The spec's own account of an illegal word (30_encoding.md R64) agrees with the decoder. -/
theorem illegalWord_eq_false_iff_decodes (w : ReqWord) :
    illegalWord w = false ↔ ∃ i, decode (.req32 w) = .ok i := by
  rw [illegalWord_eq_false_iff]
  constructor
  · rintro ⟨hrsv, hop⟩
    exact exists_decode_req32_ok hrsv hop
  · rintro ⟨i, h⟩
    obtain ⟨hrsv, hop⟩ := decode_req32_ok_cases h
    refine ⟨hrsv, ?_⟩
    rcases hop with ⟨hop, -⟩ | ⟨hop, -⟩ | ⟨hop, -⟩ | ⟨hop, -⟩ | ⟨hop, -⟩ | ⟨hop, -⟩ <;> simp [hop]

/-! ### What a request does -/

theorem performRequest_of_decode_ok {w : ReqWord} {i : Instr} (h : decode (.req32 w) = .ok i)
    (s : State) : performRequest w s = exec i s := by
  simp [performRequest, h]

theorem performRequest_of_decode_error {w : ReqWord} {r : DecodeReject}
    (h : decode (.req32 w) = .error r) (s : State) :
    performRequest w s = .next (raiseIllegalRequest s) := by
  simp [performRequest, h]

/-- BUILDWR has one meaning under its three names (30_encoding.md R78). -/
@[simp] theorem exec_spellWrite (mask : RelayMask) (s : State) :
    exec (spellWrite mask) s = .next (performWrite mask s) := by
  by_cases hon : mask = 0xFFFF#16
  · simp [spellWrite, hon]
  · by_cases hoff : mask = 0x0000#16 <;> simp [spellWrite, hon, hoff]

/-- A legal request clears ILL (10_state.md R29). -/
theorem exec_clears_ill_of_decode_ok {w : ReqWord} {i : Instr} (h : decode (.req32 w) = .ok i)
    (s : State) : ∃ t, exec i s = .next t ∧ t.ill = false := by
  obtain ⟨-, hi⟩ := decode_req32_ok_cases h
  rcases hi with ⟨-, rfl⟩ | ⟨-, rfl⟩ | ⟨-, rfl⟩ | ⟨-, rfl⟩ | ⟨-, rfl⟩ | ⟨-, rfl⟩ <;> simp

theorem performRequest_ill (w : ReqWord) (s : State) :
    ∃ t, performRequest w s = .next t ∧ t.ill = illegalWord w := by
  have hverdict := illegalWord_eq_false_iff_decodes w
  cases h : decode (.req32 w) with
  | ok i =>
    rw [performRequest_of_decode_ok h, hverdict.mpr ⟨i, h⟩]
    exact exec_clears_ill_of_decode_ok h s
  | error r =>
    refine ⟨_, performRequest_of_decode_error h s, ?_⟩
    simpa [h] using hverdict

/-! ### What a step changes -/

/-- The change a step that answers has made: the step's event and the update it calls, on the state
with that event removed. -/
inductive StepChange (s : State) : State → Prop
  | idle (hs : s.script = []) : StepChange s s
  | writesMask (w : ReqWord) (rest : List HostEvent) (hs : s.script = .request w :: rest)
      (v : BitVec 16) : StepChange s (completeMask v { s with script := rest })
  | buildsReadFrame (w : ReqWord) (rest : List HostEvent) (hs : s.script = .request w :: rest) :
      StepChange s (completeFrame (buildReadFrame s.frame) readFrameSize { s with script := rest })
  | buildsWriteFrame (w : ReqWord) (rest : List HostEvent) (hs : s.script = .request w :: rest)
      (mask : RelayMask) : StepChange s (performWrite mask { s with script := rest })
  | setsIll (w : ReqWord) (rest : List HostEvent) (hs : s.script = .request w :: rest) (b : Bool) :
      StepChange s (setIll b { s with script := rest })
  | drivesResponse (bytes : Vector Byte 64) (rest : List HostEvent)
      (hs : s.script = .supplyResponse bytes :: rest) :
      StepChange s (driveResponse bytes { s with script := rest })
  | resets (rest : List HostEvent) (hs : s.script = .reset :: rest) :
      StepChange s (resetRegisters { s with script := rest })
  | hostReads (e : HostEvent) (rest : List HostEvent) (hs : s.script = e :: rest)
      (he : isHostRead e = true) : StepChange s { s with script := rest }

theorem stepChange_of_step {s t : State} (h : step s = .next t) : StepChange s t := by
  rcases step_next_cases h with ⟨hs, rfl⟩ | ⟨e, rest, hs, hcase⟩
  · exact .idle hs
  rcases hcase with ⟨w, rfl, hreq⟩ | ⟨bytes, rfl, rfl⟩ | ⟨rfl, rfl⟩ | ⟨he, rfl⟩
  · obtain ⟨u, hu, hcase⟩ := performRequest_cases w { s with script := rest }
    obtain rfl : u = t := Host.Outcome.next.inj (hu.symm.trans hreq)
    rcases hcase with ⟨v, rfl⟩ | rfl | ⟨mask, rfl⟩ | rfl | rfl
    · exact .writesMask w rest hs v
    · exact .buildsReadFrame w rest hs
    · exact .buildsWriteFrame w rest hs mask
    · exact .setsIll w rest hs false
    · exact .setsIll w rest hs true
  · exact .drivesResponse bytes rest hs
  · exact .resets rest hs
  · refine .hostReads e rest hs ?_
    rcases he with rfl | ⟨x, rfl⟩ | rfl | rfl <;> rfl

theorem step_keeps_lut {s t : State} (h : step s = .next t) : t.lut = s.lut := by
  cases stepChange_of_step h <;> simp

theorem step_fsize {s t : State} (h : step s = .next t) :
    t.fsize = s.fsize ∨ t.fsize = 0#7 ∨ t.fsize = 64#7 ∨ t.fsize = 65#7 := by
  cases stepChange_of_step h <;> simp [readFrameSize, writeFrameSize]

/-- The one step that clears MVALID is the reset event (10_state.md R28). -/
theorem step_keeps_mvalid_or_resets {s t : State} (h : step s = .next t) (hv : s.mvalid = true) :
    t.mvalid = true ∨ ∃ rest, s.script = .reset :: rest := by
  cases stepChange_of_step h
  case resets rest hs => exact .inr ⟨rest, hs⟩
  all_goals simp [hv]

theorem step_takeMask {s : State} {rest : List HostEvent} (h : s.script = .takeMask :: rest) :
    step s = if s.mvalid then .next { s with script := rest } else .fault .maskNotValid := by
  rw [step_cons h]
  cases hv : s.mvalid <;> simp [performEvent, hostReadMask, afterRead]

/-- Only TOWIRE, TOLOGICAL, BUILDWR and DECODE read the table (10_state.md R21). -/
theorem performRequest_ignores_lut {w : ReqWord}
    (hw : ¬ (reqRsv w = 0#12 ∧ (reqOp w = 1#4 ∨ reqOp w = 2#4 ∨ reqOp w = 4#4 ∨ reqOp w = 5#4)))
    (s : State) (lut : Lut) :
    ∃ t, performRequest w s = .next t ∧
      performRequest w { s with lut := lut } = .next { t with lut := lut } := by
  cases h : decode (.req32 w) with
  | error r => exact ⟨_, performRequest_of_decode_error h _, performRequest_of_decode_error h _⟩
  | ok i =>
    simp only [performRequest_of_decode_ok h]
    obtain ⟨hrsv, hi⟩ := decode_req32_ok_cases h
    rcases hi with ⟨-, rfl⟩ | ⟨hop, -⟩ | ⟨hop, -⟩ | ⟨-, rfl⟩ | ⟨hop, -⟩ | ⟨hop, -⟩
    · exact ⟨_, rfl, rfl⟩
    · exact absurd ⟨hrsv, .inl hop⟩ hw
    · exact absurd ⟨hrsv, .inr (.inl hop)⟩ hw
    · exact ⟨_, rfl, rfl⟩
    · exact absurd ⟨hrsv, .inr (.inr (.inl hop))⟩ hw
    · exact absurd ⟨hrsv, .inr (.inr (.inr hop))⟩ hw

/-! ### The status word -/

/-- The bits of SR from bit 0 up: ILL, MVALID, six zeros, FSIZE, zeros (10_state.md R30). -/
theorem getLsbD_statusWord (s : State) (k : Nat) :
    (statusWord s).getLsbD k =
      if k = 0 then s.ill else if k = 1 then s.mvalid else if k < 8 then false
      else s.fsize.getLsbD (k - 8) := by
  rw [statusWord, BitVec.getLsbD_setWidth, BitVec.getLsbD_append, BitVec.getLsbD_append,
    BitVec.getLsbD_append]
  by_cases h0 : k = 0
  · simp [h0]
  by_cases h1 : k = 1
  · simp [h1]
  by_cases h8 : k < 8
  · simp [h0, h1, h8, show ¬ k < 1 by omega, show ¬ k - 1 < 1 by omega, show k - 1 - 1 < 6 by omega]
  · have hwidth : s.fsize.getLsbD (k - 8) = true → k < 32 := fun h => by
      have := BitVec.lt_of_getLsbD h
      omega
    simpa [h0, h1, h8, show ¬ k < 1 by omega, show ¬ k - 1 < 1 by omega, show ¬ k - 1 - 1 < 6 by omega,
      show k - 1 - 1 - 6 = k - 8 by omega] using hwidth

theorem statusWord_ill (s : State) : (statusWord s).getLsbD 0 = s.ill := by
  rw [getLsbD_statusWord, if_pos rfl]

theorem statusWord_mvalid (s : State) : (statusWord s).getLsbD 1 = s.mvalid := by
  rw [getLsbD_statusWord, if_neg (by omega), if_pos rfl]

theorem getLsbD_statusWord_from_two (s : State) (k : Nat) :
    (statusWord s).getLsbD (2 + k) = if k < 6 then false else s.fsize.getLsbD (k - 6) := by
  rw [getLsbD_statusWord, if_neg (by omega), if_neg (by omega)]
  congr 1
  · simp; omega
  · congr 1; omega

theorem statusWord_low_zeros (s : State) : (statusWord s).extractLsb' 2 6 = 0#6 := by
  refine BitVec.eq_of_getLsbD_eq fun k hk => ?_
  rw [BitVec.getLsbD_extractLsb', getLsbD_statusWord_from_two, if_pos hk]
  simp

theorem statusWord_fsize (s : State) : (statusWord s).extractLsb' 8 7 = s.fsize := by
  refine BitVec.eq_of_getLsbD_eq fun k hk => ?_
  rw [BitVec.getLsbD_extractLsb', show 8 + k = 2 + (k + 6) by omega, getLsbD_statusWord_from_two]
  simp [hk]

theorem statusWord_high_zeros (s : State) : (statusWord s).extractLsb' 15 17 = 0#17 := by
  refine BitVec.eq_of_getLsbD_eq fun k hk => ?_
  rw [BitVec.getLsbD_extractLsb', show 15 + k = 2 + (k + 13) by omega, getLsbD_statusWord_from_two,
    if_neg (by omega), BitVec.getLsbD_of_ge _ _ (by omega)]
  simp

/-! ### The positions of a lookup table -/

theorem tableEntry_eq_getElem (t : LutTable) (i : Fin 16) : tableEntry t i.val = t[i] := by
  simp [tableEntry, List.getD_eq_getElem?_getD]

theorem countBits_eq_zero_iff (v : BitVec 16) (n : Nat) :
    countBits v n = 0 ↔ ∀ k < n, v.getLsbD k = false := by
  induction n with
  | zero => simp [countBits]
  | succ n ih => 
    simp only [countBits, Nat.add_eq_zero_iff, ih, Bool.toNat_eq_zero, Nat.forall_lt_succ_right]

/-- A value with one bit set below `n` has it at one position. -/
theorem exists_bit_of_countBits_eq_one (v : BitVec 16) (n : Nat) (h : countBits v n = 1) :
    ∃ k < n, ∀ j < n, v.getLsbD j = decide (j = k) := by
  induction n with
  | zero => simp [countBits] at h
  | succ n ih =>
    rw [countBits] at h
    cases hn : v.getLsbD n with
    | true =>
      have hlow := (countBits_eq_zero_iff v n).mp (by simpa [hn] using h)
      refine ⟨n, by omega, fun j hj => ?_⟩
      obtain rfl | hlt := Nat.eq_or_lt_of_le (Nat.lt_succ_iff.mp hj)
      · simp [hn]
      · simp [hlow j hlt, show j ≠ n by omega]
    | false =>
      obtain ⟨k, hk, hbits⟩ := ih (by simpa [hn] using h)
      refine ⟨k, by omega, fun j hj => ?_⟩
      obtain rfl | hlt := Nat.eq_or_lt_of_le (Nat.lt_succ_iff.mp hj)
      · simp [hn, show j ≠ k by omega]
      · exact hbits j hlt

theorem eq_one_shift_of_popcount {v : BitVec 16} (h : popcount v = 1) :
    ∃ k : Fin 16, v = 1#16 <<< k.val := by
  obtain ⟨k, hk, hbits⟩ := exists_bit_of_countBits_eq_one v 16 h
  refine ⟨⟨k, hk⟩, BitVec.eq_of_getLsbD_eq fun j hj => ?_⟩
  rw [hbits j hj, getLsbD_one_shift hk]

theorem one_shift_and_self_ne_zero : ∀ k : Fin 16, 1#16 <<< k.val &&& 1#16 <<< k.val ≠ 0#16 := by decide

/-- One-bit entries that never share a bit stand at the positions of a permutation (10_state.md R22). -/
theorem exists_perm_of_popcount_of_disjoint {f : Fin 16 → BitVec 16}
    (hpop : ∀ i, popcount (f i) = 1) (hdisj : ∀ i j, i ≠ j → f i &&& f j = 0#16) :
    ∃ p : Equiv.Perm (Fin 16), ∀ i, f i = 1#16 <<< (p i).val := by
  choose pos hpos using fun i => eq_one_shift_of_popcount (hpop i)
  have hinj : Function.Injective pos := by
    intro i j hij
    by_contra hne
    have hzero := hdisj i j hne
    rw [hpos i, hpos j, hij] at hzero
    exact one_shift_and_self_ne_zero _ hzero
  exact ⟨Equiv.ofBijective pos (Finite.injective_iff_bijective.mp hinj), hpos⟩

theorem lutOk_iff_getElem (t : LutTable) :
    lutOk t = true ↔
      (∀ i : Fin 16, popcount t[i] = 1) ∧ (∀ i j : Fin 16, i ≠ j → t[i] &&& t[j] = 0#16) ∧
      orUpTo (tableEntry t) 16 = 0xFFFF#16 := by
  simp only [lutOk_iff, ← tableEntry_eq_getElem, Fin.forall_iff, ne_eq, Fin.mk.injEq]

theorem eq_tableOfPositions {t : LutTable} {p : Equiv.Perm (Fin 16)}
    (h : ∀ i : Fin 16, t[i] = 1#16 <<< (p i).val) : t = tableOfPositions p := by
  refine Vector.ext fun i hi => ?_
  simpa [tableOfPositions] using h ⟨i, hi⟩

theorem bitIndex_one_shift {k : Nat} (hk : k < 16) (n : Nat) :
    bitIndex (1#16 <<< k) n = if k < n then k else 0 := by
  induction n with
  | zero => rfl
  | succ n ih =>
    rw [bitIndex, getLsbD_one_shift hk, ih]
    grind

theorem wirePosition_eq {lut : Lut} {i k : Nat} (hk : k < 16) (h : lutEntry lut i = 1#16 <<< k) :
    wirePosition lut i = k := by
  rw [wirePosition, h, bitIndex_one_shift hk, if_pos hk]

theorem wirePosition_spec (lut : Lut) {i : Nat} (hi : i < 16) :
    wirePosition lut i < 16 ∧ lutEntry lut i = 1#16 <<< wirePosition lut i := by
  obtain ⟨k, hk⟩ := eq_one_shift_of_popcount (lut_popcount lut hi)
  rw [wirePosition_eq k.isLt hk]
  exact ⟨k.isLt, hk⟩

/-- The wire mask of one relay is that relay's entry (40_bitmapper.md R80). -/
theorem toWire_one_shift (lut : Lut) {i : Nat} (hi : i < 16) :
    toWire lut (1#16 <<< i) = lutEntry lut i := by
  refine BitVec.eq_of_getLsbD_eq fun k _ => ?_
  rw [Bool.eq_iff_iff, getLsbD_toWire]
  simp only [getLsbD_one_shift hi, decide_eq_true_eq]
  constructor
  · rintro ⟨j, -, rfl, h⟩
    exact h
  · exact fun h => ⟨i, hi, rfl, h⟩

/-! ### The statements of 10_state.md -/

/-- Settles O10: a word is illegal exactly where the decoder reads no instruction from it. -/
theorem illIsTheVerdictOfEachRequest : Obligations.IllIsTheVerdictOfEachRequest := by
  refine ⟨rfl, fun s w rest hs => ?_⟩
  obtain ⟨t, ht, hill⟩ := performRequest_ill w { s with script := rest }
  exact ⟨t, (step_cons hs).trans ht, hill, (statusWord_ill t).trans hill⟩

/-- Settles O19: the entries' positions are injective by disjointness, hence a permutation. -/
theorem lutOkIsAPermutation : Obligations.LutOkIsAPermutation := by
  refine fun table => ⟨lutOk_iff_getElem table, fun h => ?_, fun ⟨p, hp⟩ => ?_⟩
  · obtain ⟨hpop, hdisj, -⟩ := (lutOk_iff_getElem table).mp h
    exact exists_perm_of_popcount_of_disjoint hpop hdisj
  · rw [eq_tableOfPositions hp]
    exact lutOk_tableOfPositions p

/-- Settles O20: an entry has one bit, and `bitIndex` finds it. -/
theorem wirePositionOfEachRelay : Obligations.WirePositionOfEachRelay := by
  refine fun lut => ⟨fun i hi => ?_, fun r h1 h16 => ?_⟩
  · obtain ⟨hlt, hentry⟩ := wirePosition_spec lut hi
    exact ⟨hlt, hentry, fun k hk h => (wirePosition_eq hk h).symm⟩
  · have hr : r - 1 < 16 := by omega
    obtain ⟨-, hentry⟩ := wirePosition_spec lut hr
    rw [toWire_one_shift lut hr, ← hentry]

/-- Settles O22: of the legal requests only NOP and BUILDRD are left, and neither names the table. -/
theorem lutIsReadOnly : Obligations.LutIsReadOnly := by
  refine ⟨rfl, fun s t => step_keeps_lut, fun s w rest lut hs hw => ?_⟩
  obtain ⟨t, ht, hlut⟩ := performRequest_ignores_lut hw { s with script := rest } lut
  have hs' : State.script { s with lut := lut } = .request w :: rest := hs
  exact ⟨t, (step_cons hs).trans ht, (step_cons hs').trans hlut⟩

/-- Settles O36, from what a step changes and what a read of MOUT answers. -/
theorem mvalidGuardsMout : Obligations.MvalidGuardsMout := by
  refine ⟨fun s m arg => ⟨_, _, _, exec_towire m s, rfl, exec_tological m s, rfl, exec_decode arg s, rfl⟩,
    fun s t h hv ht => ?_, fun s rest hs => ⟨fun hv => ?_, fun hv => ⟨?_, ?_⟩⟩⟩
  · exact (step_keeps_mvalid_or_resets h hv).resolve_left (by simp [ht])
  · simp [step_takeMask hs, hv]
  · simp [step_takeMask hs, hv]
  · simp [hostReadMask, hv]

/-- Settles O40, bit by bit. -/
theorem statusWordLayout : Obligations.StatusWordLayout := by
  refine ⟨fun s => ⟨statusWord_ill s, statusWord_mvalid s, statusWord_low_zeros s, statusWord_fsize s,
    statusWord_high_zeros s⟩, fun s hinv => ?_, rfl, fun s rest hs => step_cons hs⟩
  · obtain ⟨-, hframe, -⟩ := hinv
    rcases hframe with ⟨h, -⟩ | ⟨h, -⟩ | ⟨h, -⟩ <;> simp [h]

/-- Settles O47: a step keeps FSIZE or sets it to one of the three. -/
theorem fsizeHoldsOnlyFrameLengths : Obligations.FsizeHoldsOnlyFrameLengths := by
  refine ⟨rfl, fun s t h hs => ?_, fun s arg => ⟨_, exec_buildrd arg s, rfl⟩,
    fun s mask => ⟨_, exec_buildwr mask s, rfl⟩⟩
  rcases step_fsize h with hkept | hset
  · rwa [hkept]
  · exact hset

/-- Settles O21, by the two branches of the configuration check. -/
theorem powerOnChecksTheTable : Obligations.PowerOnChecksTheTable :=
  ⟨fun _ h => dif_neg (by simp [h]), fun _ h => dif_pos h⟩

end Machine
end Sys2Proof
end

section
/-! SUPPORT. Reading a byte of FRAME after MemWrite, the bits of MemRead, and what a host read and a request keep:
the layer under the statements of 20_memory.md. -/

namespace Sys2Proof.Machine

/-! ### MemWrite and MemRead -/

/-- Reading a byte after MemWrite inside FRAME (20_memory.md R42). -/
theorem readByte_memWrite (m : Memory) {a n : Nat} (v : BitVec 32) (x : Nat) (hn : a + n ≤ frameBytes) :
    readByte (memWrite m a n v) x =
      if a ≤ x ∧ x < a + n then v.extractLsb' (8 * (x - a)) 8 else readByte m x := by
  induction n with
  | zero =>
    rw [memWrite, if_neg (by omega)]
  | succ n ih =>
    rw [memWrite, readByte_writeByte, ih (by omega)]
    by_cases hx : x = a + n
    · subst hx
      rw [if_pos ⟨rfl, by omega⟩, if_pos (by omega), Nat.add_sub_cancel_left]
    · rw [if_neg (by tauto)]
      exact if_congr (by omega) rfl rfl

theorem respByte_eq_getElem (resp : Vector Byte 64) {x : Nat} (hx : x < 64) :
    respByte resp x = resp[x] := by
  simp [respByte, List.getD_eq_getElem?_getD, hx]

/-- Bit `k` of MemRead is bit `k % 8` of the byte at offset `a + k / 8` (20_memory.md R43). -/
theorem getLsbD_memRead (resp : Vector Byte 64) (a n k : Nat) (hk : k < 32) :
    (memRead resp a n).getLsbD k =
      (decide (k < 8 * n) && (respByte resp (a + k / 8)).getLsbD (k % 8)) := by
  induction n with
  | zero => simp [memRead]
  | succ n ih =>
    rw [memRead, BitVec.getLsbD_or, BitVec.getLsbD_shiftLeft, BitVec.getLsbD_setWidth, ih]
    by_cases hlow : k < 8 * n
    · simp [hlow, show k < 8 * (n + 1) by omega]
    by_cases hbyte : k < 8 * (n + 1)
    · simp [hk, hlow, hbyte, show k / 8 = n by omega, show k % 8 = k - 8 * n by omega,
        show k - 8 * n < 32 by omega]
    · simp [hlow, hbyte, BitVec.getLsbD_of_ge _ _ (show 8 ≤ k - 8 * n by omega)]

theorem memRead_one (resp : Vector Byte 64) (a : Nat) :
    memRead resp a 1 = (respByte resp a).setWidth 32 := by
  simp [memRead]

/-- The bits of the two bytes, by the byte a bit lies in. -/
theorem memRead_two (resp : Vector Byte 64) (a : Nat) :
    memRead resp a 2 = (respByte resp (a + 1) ++ respByte resp a).setWidth 32 := by
  refine BitVec.eq_of_getLsbD_eq fun k hk => ?_
  rw [getLsbD_memRead _ _ _ _ hk, BitVec.getLsbD_setWidth, BitVec.getLsbD_append]
  split_ifs <;> grind

/-- The bits of the four bytes, by the byte a bit lies in. -/
theorem memRead_four (resp : Vector Byte 64) (a : Nat) :
    memRead resp a 4 = respByte resp (a + 3) ++ respByte resp (a + 2) ++ respByte resp (a + 1) ++
      respByte resp a := by
  refine BitVec.eq_of_getLsbD_eq fun k hk => ?_
  rw [getLsbD_memRead _ _ _ _ hk, BitVec.getLsbD_append, BitVec.getLsbD_append, BitVec.getLsbD_append]
  split_ifs <;> grind

/-! ### What a host read and a request keep -/

/-- A host read that answers removes itself from the script and does nothing else (20_memory.md R47). -/
theorem step_hostRead {s t : State} {e : HostEvent} {rest : List HostEvent} (hs : s.script = e :: rest)
    (he : isHostRead e = true) (h : step s = .next t) : t = { s with script := rest } := by
  rcases step_next_cases h with ⟨hnil, -⟩ | ⟨e', rest', hs', hcase⟩
  · simp [hs] at hnil
  obtain ⟨rfl, rfl⟩ := List.cons.inj (hs.symm.trans hs')
  rcases hcase with ⟨w, rfl, -⟩ | ⟨bytes, rfl, -⟩ | ⟨rfl, -⟩ | ⟨-, ht⟩
  · simp [isHostRead] at he
  · simp [isHostRead] at he
  · simp [isHostRead] at he
  · exact ht

/-- No request, legal or not, writes RESP_IN or LUT (20_memory.md R47). -/
theorem performRequest_keeps_inputs (w : ReqWord) (s : State) :
    ∃ t, performRequest w s = .next t ∧ t.respIn = s.respIn ∧ t.lut = s.lut := by
  obtain ⟨t, ht, hcase⟩ := performRequest_cases w s
  refine ⟨t, ht, ?_⟩
  rcases hcase with ⟨v, rfl⟩ | rfl | ⟨mask, rfl⟩ | rfl | rfl <;> simp

/-! ### The statements of 20_memory.md -/

/-- Settles O26: the byte at `a + k` lies in the written range, and no other offset does. -/
theorem memWriteIsLittleEndian : Obligations.MemWriteIsLittleEndian := by
  refine fun m a n v _ hfit => ⟨fun k hk => ?_, fun x hx => ?_⟩
  · rw [readByte_memWrite m v _ hfit, if_pos (by omega), Nat.add_sub_cancel_left]
  · rw [readByte_memWrite m v _ hfit, if_neg (by omega)]

/-- Settles O27, for each of the three sizes. -/
theorem memReadIsLittleEndian : Obligations.MemReadIsLittleEndian := by
  refine fun resp a => ⟨fun h => ?_, fun h => ?_, fun h => ?_⟩
  · rw [memRead_one, respByte_eq_getElem]
  · rw [memRead_two, respByte_eq_getElem, respByte_eq_getElem]
  · rw [memRead_four, respByte_eq_getElem, respByte_eq_getElem, respByte_eq_getElem, respByte_eq_getElem]

/-- Settles O41, from what a step and a request can change. -/
theorem readsHaveNoSideEffect : Obligations.ReadsHaveNoSideEffect := by
  refine ⟨fun s t e rest hs he h => step_hostRead hs he h, fun s w rest hs => ?_⟩
  rw [step_cons hs]
  exact performRequest_keeps_inputs w { s with script := rest }

/-- Settles O42: the event's one meaning is the refusal. -/
theorem secondHostIsRefused : Obligations.SecondHostIsRefused :=
  fun _ _ hs => step_cons hs

end Sys2Proof.Machine
end

section
/-! SUPPORT. The operation map of OP read forwards, a request word by shift and OR, and DECODE's operand by its two
bytes: the layer under the statements of 30_encoding.md. -/

namespace Sys2Proof

/-! ### Request words and the operation map -/

theorem decode_req32_of_op {w : ReqWord} {op : BitVec 4} (hrsv : reqRsv w = 0#12) (hop : reqOp w = op) :
    decode (.req32 w) = decodeOp op (reqArg w) := by
  rw [decode_req32_of_rsv_zero hrsv, hop]

/-- A word with a reserved OP is rejected, whatever RSV is (30_encoding.md R64). -/
theorem decode_req32_of_six_le {w : ReqWord} (hop : 6 ≤ (reqOp w).toNat) :
    ∃ r, decode (.req32 w) = .error r := by
  by_cases hrsv : reqRsv w = 0#12
  · exact ⟨_, (decode_req32_of_rsv_zero hrsv).trans (decodeOp_of_six_le hop _)⟩
  · exact ⟨_, decode_req32_of_rsv_ne hrsv⟩

/-- Whatever name BUILDWR is read under, it expands to BUILDWR (30_encoding.md R78). -/
@[simp] theorem expand_spellWrite (mask : RelayMask) : (spellWrite mask).expand = .buildwr mask := by
  by_cases hon : mask = 0xFFFF#16
  · simp [spellWrite, hon, Instr.expand]
  · by_cases hoff : mask = 0x0000#16 <;> simp [spellWrite, hon, hoff, Instr.expand]

/-- A request word as `(ARG << 16) | OP` (30_encoding.md R79). -/
theorem reqWord_eq_shift_or (op : BitVec 4) (arg : BitVec 16) :
    reqWord op arg = (arg.setWidth 32 <<< 16) ||| op.setWidth 32 := by
  refine BitVec.eq_of_getLsbD_eq fun k hk => ?_
  rw [getLsbD_reqWord, BitVec.getLsbD_or, BitVec.getLsbD_shiftLeft, BitVec.getLsbD_setWidth,
    BitVec.getLsbD_setWidth]
  by_cases h4 : k < 4
  · simp [h4, hk, show k < 16 by omega]
  have hop : op.getLsbD k = false := BitVec.getLsbD_of_ge _ _ (by omega)
  by_cases h16 : k < 16
  · simp [h4, h16, hop]
  · simp [h4, h16, hop, hk, show k - 16 < 32 by omega]

namespace Machine

/-! ### DECODE's operand -/

/-- The WireMask of a response is its bytes 3 and 2 (30_encoding.md R76). -/
theorem responseReg_eq (resp : Vector Byte 64) : responseReg resp = resp[3] ++ resp[2] := by
  show (memRead resp 2 2).setWidth 16 = _
  rw [memRead_two, respByte_eq_getElem, respByte_eq_getElem, BitVec.setWidth_setWidth_of_le _ (by omega)]
  exact BitVec.setWidth_eq _

/-! ### The step of a request -/

theorem step_request_of_decode_ok {s : State} {w : ReqWord} {rest : List HostEvent} {i : Instr}
    (hs : s.script = .request w :: rest) (h : decode (.req32 w) = .ok i) :
    step s = exec i { s with script := rest } :=
  (step_cons hs).trans (performRequest_of_decode_ok h _)

theorem step_request_of_decode_error {s : State} {w : ReqWord} {rest : List HostEvent} {r : DecodeReject}
    (hs : s.script = .request w :: rest) (h : decode (.req32 w) = .error r) :
    step s = .next (raiseIllegalRequest { s with script := rest }) :=
  (step_cons hs).trans (performRequest_of_decode_error h _)

/-! ### The statements of 30_encoding.md -/

/-- Settles O3: the decoder is the map of OP where RSV is zero, and BUILDWR's spelling expands to it. -/
theorem operationMapOfOp : Obligations.OperationMapOfOp := by
  refine fun w hrsv => ⟨fun hop => ?nop, fun hop => ?towire, fun hop => ?tological, fun hop => ?buildrd,
    fun hop => ⟨spellWrite (reqArg w), ?buildwr, expand_spellWrite _, fun s => ?effect⟩,
    fun hop => ?decode, decode_req32_of_six_le⟩
  case effect => exact (exec_spellWrite _ s).trans (exec_buildwr _ s).symm
  all_goals exact decode_req32_of_op hrsv hop

/-- Settles O32: DECODE's operand is the two bytes, and RESP_IN is used for nothing else. -/
theorem decodeReadsOnlyTheRegBytes : Obligations.DecodeReadsOnlyTheRegBytes := by
  intro s resp arg h2 h3
  have hreg : responseReg resp = responseReg s.respIn := by
    rw [responseReg_eq, responseReg_eq, h2, h3]
  refine ⟨_, exec_decode arg s, ?_, ?_⟩
  · rw [completeMask_mout, responseReg_eq]
  · rw [exec_decode, hreg]
    rfl

/-- Settles O5: each word is `(ARG << 16) | OP`. -/
theorem requestWordsOfLegalOperations : Obligations.RequestWordsOfLegalOperations := by
  refine ⟨by decide, fun a => ?towire, fun a => ?tological, by decide, fun a => ?buildwr, by decide,
    by decide⟩
  all_goals exact congrArg Code.req32 (reqWord_eq_shift_or _ a)

/-- Settles O6: the pseudo-instructions' words are written out in the encoder, and their meaning is
BUILDWR's. -/
theorem pseudoInstructionsExpand : Obligations.PseudoInstructionsExpand :=
  ⟨rfl, by decide, rfl, by decide, fun s =>
    ⟨(exec_allon s).trans (exec_buildwr _ s).symm, (exec_alloff s).trans (exec_buildwr _ s).symm⟩⟩

/-- Settles O9: a word is rejected for RSV or for OP, and a rejected word only raises IllegalRequest. -/
theorem illegalRequestsOnlySetIll : Obligations.IllegalRequestsOnlySetIll := by
  refine fun s w rest hs => ⟨fun hillegal => ?_, fun hlegal => ?_⟩
  · obtain ⟨r, hr⟩ : ∃ r, decode (.req32 w) = .error r := by
      rcases hillegal with hop | hrsv
      · exact decode_req32_of_six_le hop
      · exact ⟨_, decode_req32_of_rsv_ne hrsv⟩
    exact step_request_of_decode_error hs hr
  · obtain ⟨hop, hrsv⟩ := not_or.mp hlegal
    obtain ⟨i, hi⟩ := exists_decode_req32_ok (not_not.mp hrsv) (Nat.lt_of_not_le hop)
    exact ⟨i, hi, step_request_of_decode_ok hs hi⟩

end Machine
end Sys2Proof
end

section
/-! SUPPORT. Where the two mapping functions move each bit, and the laws that follow from it: the layer under the
statements of 40_bitmapper.md. -/

namespace Sys2Proof

/-! ### Decoding a request word written as `(ARG << 16) | OP` -/

theorem decode_shift_or (op : BitVec 4) (arg : BitVec 16) :
    decode (.req32 ((arg.setWidth 32 <<< 16) ||| op.setWidth 32)) = decodeOp op arg := by
  rw [← reqWord_eq_shift_or, decode_req32_of_op (reqRsv_reqWord op arg) (reqOp_reqWord op arg),
    reqArg_reqWord]

namespace Machine

/-! ### The wire positions, as a permutation of the 16 bits -/

theorem exists_perm_wirePosition (lut : Lut) :
    ∃ p : Equiv.Perm (Fin 16), ∀ i : Fin 16, wirePosition lut i = p i := by
  obtain ⟨p, hp⟩ := exists_perm_of_popcount_of_disjoint (f := fun i => lutEntry lut i)
    (fun i => lut_popcount lut i.isLt) fun i j h => lut_disjoint lut i.isLt j.isLt (Fin.val_ne_of_ne h)
  exact ⟨p, fun i => wirePosition_eq (p i).isLt (hp i)⟩

theorem wirePosition_lt (lut : Lut) {i : Nat} (hi : i < 16) : wirePosition lut i < 16 :=
  (wirePosition_spec lut hi).1

theorem wirePosition_inj (lut : Lut) {i j : Nat} (hi : i < 16) (hj : j < 16)
    (h : wirePosition lut i = wirePosition lut j) : i = j := by
  obtain ⟨p, hp⟩ := exists_perm_wirePosition lut
  rw [hp ⟨i, hi⟩, hp ⟨j, hj⟩] at h
  exact congrArg Fin.val (p.injective (Fin.ext h))

theorem exists_wirePosition_eq (lut : Lut) {k : Nat} (hk : k < 16) : ∃ i < 16, wirePosition lut i = k := by
  obtain ⟨p, hp⟩ := exists_perm_wirePosition lut
  refine ⟨p.symm ⟨k, hk⟩, Fin.isLt _, ?_⟩
  rw [hp, Equiv.apply_symm_apply]

theorem getLsbD_lutEntry (lut : Lut) {i : Nat} (hi : i < 16) (k : Nat) :
    (lutEntry lut i).getLsbD k = decide (k = wirePosition lut i) := by
  obtain ⟨hlt, hentry⟩ := wirePosition_spec lut hi
  rw [hentry, getLsbD_one_shift hlt]

/-! ### Where each bit goes -/

/-- A one-bit pattern is present where its bit is set (40_bitmapper.md R81). -/
theorem and_one_shift_eq_iff (w : BitVec 16) {k : Nat} (hk : k < 16) :
    w &&& 1#16 <<< k = 1#16 <<< k ↔ w.getLsbD k = true := by
  refine ⟨fun h => ?_, fun h => BitVec.eq_of_getLsbD_eq fun j _ => ?_⟩
  · have hbit := congrArg (BitVec.getLsbD · k) h
    simpa [getLsbD_one_shift hk] using hbit
  · rw [BitVec.getLsbD_and, getLsbD_one_shift hk]
    by_cases hj : j = k
    · simp [hj, h]
    · simp [hj]

/-- `toWire(m)[p(i)] = m[i]` (40_bitmapper.md R80): no other relay's entry has the bit `p(i)`. -/
theorem getLsbD_toWire_wirePosition (lut : Lut) (m : RelayMask) {i : Nat} (hi : i < 16) :
    (toWire lut m).getLsbD (wirePosition lut i) = m.getLsbD i := by
  rw [Bool.eq_iff_iff, getLsbD_toWire]
  constructor
  · rintro ⟨j, hj, hm, hbit⟩
    rw [getLsbD_lutEntry lut hj, decide_eq_true_eq] at hbit
    rwa [wirePosition_inj lut hi hj hbit]
  · exact fun hm => ⟨i, hi, hm, by rw [getLsbD_lutEntry lut hi, decide_eq_true_eq]⟩

/-- `toLogical(w)[i] = w[p(i)]` (40_bitmapper.md R81). -/
theorem getLsbD_toLogical_eq (lut : Lut) (w : WireMask) {i : Nat} (hi : i < 16) :
    (toLogical lut w).getLsbD i = w.getLsbD (wirePosition lut i) := by
  obtain ⟨hlt, hentry⟩ := wirePosition_spec lut hi
  rw [Bool.eq_iff_iff, getLsbD_toLogical lut w hi, hentry, and_one_shift_eq_iff w hlt]

/-- `toWire(m)` is the one wire mask with bit `i` of `m` at `p(i)`, since every wire bit is some `p(i)`. -/
theorem toWire_eq_iff (lut : Lut) (m : RelayMask) (w : WireMask) :
    toWire lut m = w ↔ ∀ i < 16, m.getLsbD i = w.getLsbD (wirePosition lut i) := by
  refine ⟨fun h i hi => ?_, fun h => BitVec.eq_of_getLsbD_eq fun k hk => ?_⟩
  · rw [← h, getLsbD_toWire_wirePosition lut m hi]
  · obtain ⟨i, hi, rfl⟩ := exists_wirePosition_eq lut hk
    rw [getLsbD_toWire_wirePosition lut m hi, h i hi]

/-- The two functions are inverse: both say that bit `i` of `m` is bit `p(i)` of `w`. -/
theorem toLogical_eq_iff (lut : Lut) (w : WireMask) (m : RelayMask) :
    toLogical lut w = m ↔ toWire lut m = w := by
  rw [toWire_eq_iff]
  refine ⟨fun h i hi => ?_, fun h => BitVec.eq_of_getLsbD_eq fun i hi => ?_⟩
  · rw [← h, getLsbD_toLogical_eq lut w hi]
  · rw [getLsbD_toLogical_eq lut w hi, h i hi]

/-! ### The laws of the mapping functions -/

@[simp] theorem toLogical_toWire (lut : Lut) (m : RelayMask) : toLogical lut (toWire lut m) = m :=
  (toLogical_eq_iff lut _ m).mpr rfl

@[simp] theorem toWire_toLogical (lut : Lut) (w : WireMask) : toWire lut (toLogical lut w) = w :=
  (toLogical_eq_iff lut w _).mp rfl

@[simp] theorem toWire_zero (lut : Lut) : toWire lut 0x0000#16 = 0x0000#16 :=
  (toWire_eq_iff lut _ _).mpr fun i _ => by simp

/-- `toWire` commutes with every operation that acts on each bit alone. -/
theorem toWire_bitwise (lut : Lut) {op : BitVec 16 → BitVec 16 → BitVec 16} {f : Bool → Bool → Bool}
    (hop : ∀ a b : BitVec 16, ∀ k < 16, (op a b).getLsbD k = f (a.getLsbD k) (b.getLsbD k))
    (a b : RelayMask) : toWire lut (op a b) = op (toWire lut a) (toWire lut b) := by
  refine (toWire_eq_iff lut _ _).mpr fun i hi => ?_
  rw [hop _ _ _ hi, hop _ _ _ (wirePosition_lt lut hi), getLsbD_toWire_wirePosition lut a hi,
    getLsbD_toWire_wirePosition lut b hi]

theorem toWire_or (lut : Lut) (a b : RelayMask) : toWire lut (a ||| b) = toWire lut a ||| toWire lut b :=
  toWire_bitwise lut (fun _ _ _ _ => BitVec.getLsbD_or) a b

theorem toWire_and (lut : Lut) (a b : RelayMask) : toWire lut (a &&& b) = toWire lut a &&& toWire lut b :=
  toWire_bitwise lut (fun _ _ _ _ => BitVec.getLsbD_and) a b

theorem toWire_xor (lut : Lut) (a b : RelayMask) : toWire lut (a ^^^ b) = toWire lut a ^^^ toWire lut b :=
  toWire_bitwise lut (fun _ _ _ _ => BitVec.getLsbD_xor) a b

theorem toWire_not (lut : Lut) (a : RelayMask) : toWire lut (~~~a) = ~~~(toWire lut a) :=
  toWire_bitwise lut (op := fun x _ => ~~~x) (f := fun x _ => !x) (fun x _ k hk => by simp [hk]) a a

@[simp] theorem toWire_allOnes (lut : Lut) : toWire lut 0xFFFF#16 = 0xFFFF#16 :=
  calc toWire lut 0xFFFF#16 = ~~~(toWire lut 0x0000#16) := toWire_not lut 0x0000#16
    _ = 0xFFFF#16 := by rw [toWire_zero]; rfl

@[simp] theorem toLogical_zero (lut : Lut) : toLogical lut 0x0000#16 = 0x0000#16 :=
  (toLogical_eq_iff lut _ _).mpr (toWire_zero lut)

@[simp] theorem toLogical_allOnes (lut : Lut) : toLogical lut 0xFFFF#16 = 0xFFFF#16 :=
  (toLogical_eq_iff lut _ _).mpr (toWire_allOnes lut)

theorem toLogical_lutEntry (lut : Lut) {i : Nat} (hi : i < 16) :
    toLogical lut (lutEntry lut i) = 1#16 <<< i :=
  (toLogical_eq_iff lut _ _).mpr (toWire_one_shift lut hi)

/-- What `toWire` commutes with, its inverse commutes with. -/
theorem toLogical_of_toWire_comm (lut : Lut) {op : BitVec 16 → BitVec 16 → BitVec 16}
    (hop : ∀ x y, toWire lut (op x y) = op (toWire lut x) (toWire lut y)) (a b : WireMask) :
    toLogical lut (op a b) = op (toLogical lut a) (toLogical lut b) :=
  (toLogical_eq_iff lut _ _).mpr (by rw [hop, toWire_toLogical, toWire_toLogical])

theorem toLogical_or (lut : Lut) (a b : WireMask) :
    toLogical lut (a ||| b) = toLogical lut a ||| toLogical lut b :=
  toLogical_of_toWire_comm lut (toWire_or lut) a b

theorem toLogical_and (lut : Lut) (a b : WireMask) :
    toLogical lut (a &&& b) = toLogical lut a &&& toLogical lut b :=
  toLogical_of_toWire_comm lut (toWire_and lut) a b

theorem toLogical_xor (lut : Lut) (a b : WireMask) :
    toLogical lut (a ^^^ b) = toLogical lut a ^^^ toLogical lut b :=
  toLogical_of_toWire_comm lut (toWire_xor lut) a b

theorem toLogical_not (lut : Lut) (a : WireMask) : toLogical lut (~~~a) = ~~~(toLogical lut a) :=
  toLogical_of_toWire_comm lut (op := fun x _ => ~~~x) (fun x _ => toWire_not lut x) a a

/-! ### The number of set bits -/

theorem countBits_eq_sum (v : BitVec 16) (n : Nat) :
    countBits v n = ∑ k ∈ Finset.range n, (v.getLsbD k).toNat := by
  induction n with
  | zero => rfl
  | succ n ih => rw [countBits, Finset.sum_range_succ, ih]

theorem popcount_eq_sum (v : BitVec 16) : popcount v = ∑ k : Fin 16, (v.getLsbD k).toNat := by
  rw [popcount, countBits_eq_sum, Finset.sum_range]

/-- The wire bits are the logical bits, summed in another order. -/
theorem popcount_toWire (lut : Lut) (m : RelayMask) : popcount (toWire lut m) = popcount m := by
  obtain ⟨p, hp⟩ := exists_perm_wirePosition lut
  have hbit (i : Fin 16) : (toWire lut m).getLsbD (p i) = m.getLsbD i := by
    rw [← hp, getLsbD_toWire_wirePosition lut m i.isLt]
  calc popcount (toWire lut m) = ∑ k : Fin 16, ((toWire lut m).getLsbD k).toNat := popcount_eq_sum _
    _ = ∑ i : Fin 16, ((toWire lut m).getLsbD (p i)).toNat := (Equiv.sum_comp p _).symm
    _ = ∑ i : Fin 16, (m.getLsbD i).toNat := by simp only [hbit]
    _ = popcount m := (popcount_eq_sum m).symm

/-! ### The statements of 40_bitmapper.md -/

/-- Settles O12: the word decodes to TOWIRE, and the corner cases are laws of `toWire`. -/
theorem towireWritesTheWireMask : Obligations.TowireWritesTheWireMask := by
  refine fun s mask => ⟨exec_towire mask s, fun rest hs => ?_, toWire_zero s.lut, toWire_allOnes s.lut,
    fun i => toWire_one_shift s.lut⟩
  have hdec : decode (.req32 ((mask.setWidth 32 <<< 16) ||| 0x00000001#32)) = .ok (.towire mask) :=
    decode_shift_or 1#4 mask
  exact (step_request_of_decode_ok hs hdec).trans (exec_towire mask _)

/-- Settles O13: the word decodes to TOLOGICAL, and the corner cases are laws of `toLogical`. -/
theorem tologicalWritesTheRelayMask : Obligations.TologicalWritesTheRelayMask := by
  refine fun s mask => ⟨exec_tological mask s, fun rest hs => ?_, toLogical_zero s.lut,
    toLogical_allOnes s.lut, fun i => toLogical_lutEntry s.lut, toLogical_or s.lut⟩
  have hdec : decode (.req32 ((mask.setWidth 32 <<< 16) ||| 0x00000002#32)) = .ok (.tological mask) :=
    decode_shift_or 2#4 mask
  exact (step_request_of_decode_ok hs hdec).trans (exec_tological mask _)

/-- Settles O23: the entries of the set bits, and the one entry that has bit `p(i)`. -/
theorem toWireMovesEachBit : Obligations.ToWireMovesEachBit :=
  fun lut m => ⟨getLsbD_toWire lut m, fun _ => getLsbD_toWire_wirePosition lut m⟩

/-- Settles O24: the pattern test of an entry is a test of its one bit. -/
theorem toLogicalMovesEachBit : Obligations.ToLogicalMovesEachBit :=
  fun lut w _ hi => ⟨getLsbD_toLogical lut w hi, getLsbD_toLogical_eq lut w hi⟩

/-- Settles O25: the six laws, from the bit-level forms of the two functions. -/
theorem bitMapperLaws : Obligations.BitMapperLaws :=
  fun lut => ⟨toLogical_toWire lut, toWire_toLogical lut,
    ⟨toWire_zero lut, toWire_allOnes lut, toLogical_zero lut, toLogical_allOnes lut⟩,
    fun _ hi => ⟨toWire_one_shift lut hi, toLogical_lutEntry lut hi⟩,
    fun a b => ⟨toWire_or lut a b, toWire_and lut a b, toWire_xor lut a b, toWire_not lut a,
      toLogical_or lut a b, toLogical_and lut a b, toLogical_xor lut a b, toLogical_not lut a⟩,
    popcount_toWire lut⟩

end Machine
end Sys2Proof
end

section
/-! SUPPORT. The byte images of the two frames, field by field, and the checksum as a sum of bytes: the layer under the
statements of 41_framecodec.md. -/

namespace Sys2Proof

/-! ### Words and their bytes -/

/-- The low `n` bytes of a word, least significant first (20_memory.md R41). -/
def littleEndianBytes (n : Nat) (v : BitVec 32) : List Byte :=
  (List.range n).map fun k => v.extractLsb' (8 * k) 8

theorem getD_littleEndianBytes {n k : Nat} (v : BitVec 32) (hk : k < n) :
    (littleEndianBytes n v).getD k 0x00#8 = v.extractLsb' (8 * k) 8 := by
  simp [littleEndianBytes, List.getD_eq_getElem?_getD, hk]

theorem append_bytes_of_word (v : BitVec 32) :
    v.extractLsb' 24 8 ++ v.extractLsb' 16 8 ++ v.extractLsb' 8 8 ++ v.extractLsb' 0 8 = v := by
  refine BitVec.eq_of_getLsbD_eq fun k hk => ?_
  simp only [BitVec.getLsbD_append, BitVec.getLsbD_extractLsb']
  split_ifs <;> grind

theorem extractLsb'_setWidth_of_le {a : Nat} (w : WireMask) (ha : a + 8 ≤ 16) :
    (w.setWidth 32).extractLsb' a 8 = w.extractLsb' a 8 := by
  refine BitVec.eq_of_getLsbD_eq fun k hk => ?_
  simp [hk, show a + k < 32 by omega]

/-- A WireMask field holds the mask's low byte, then its high byte (30_encoding.md R75). -/
theorem littleEndianBytes_wireMask (w : WireMask) :
    littleEndianBytes 2 (w.setWidth 32) = [w.extractLsb' 0 8, w.extractLsb' 8 8] := by
  rw [← extractLsb'_setWidth_of_le w (by decide), ← extractLsb'_setWidth_of_le w (by decide)]
  rfl

/-- Bits 4 to 6 of the byte 0x71 lie in RSV, so a word with that low byte is no request (41_framecodec.md R109). -/
theorem reqRsv_ne_zero_of_low_byte {w : ReqWord} (h : w.extractLsb' 0 8 = 0x71#8) : reqRsv w ≠ 0#12 := by
  intro hrsv
  have hset : w.getLsbD 4 = true := by simpa using congrArg (BitVec.getLsbD · 4) h
  have hclear : w.getLsbD 4 = false := by simpa [reqRsv] using congrArg (BitVec.getLsbD · 0) hrsv
  exact absurd hset (ne_true_of_eq_false hclear)

namespace Machine

/-! ### The image of FRAME, field by field -/

/-- Filling with PAD_BYTE leaves the empty image (30_encoding.md R73). -/
theorem frameShows_fillBytes (m : Memory) : frameShows (fillBytes m padByte frameBytes) [] := by
  intro x hx
  rw [readByte_fillBytes m padByte frameBytes x le_rfl]
  exact if_pos hx

/-- Writing the field that starts where the image ends appends the field's bytes (30_encoding.md R66). -/
theorem frameShows.putField {m : Memory} {image : List Byte} (h : frameShows m image) (f : FrameField)
    (v : BitVec 32) (hlen : image.length = fieldOffset f) :
    frameShows (putField m f v) (image ++ littleEndianBytes (fieldSize f) v) := by
  intro x hx
  have hfit : fieldOffset f + fieldSize f ≤ frameBytes := (field_in_frame f).trans (by decide)
  rw [Machine.putField, readByte_memWrite m v x hfit]
  by_cases hbefore : x < fieldOffset f
  · rw [if_neg (by omega), h x hx, List.getD_append _ _ _ _ (by omega)]
  rw [List.getD_append_right _ _ _ _ (by omega), hlen]
  by_cases hin : x < fieldOffset f + fieldSize f
  · rw [if_pos (by omega), getD_littleEndianBytes v (by omega)]
  · rw [if_neg (by omega), h x hx, List.getD_eq_default _ _ (by omega),
      List.getD_eq_default _ _ (by simp [littleEndianBytes]; omega)]

/-- BUILDRD's eight fields, in order, are the read frame (41_framecodec.md R102). -/
theorem frameShows_buildReadFrame (m : Memory) :
    frameShows (buildReadFrame m) (readFrameImage Config.readChecksum) := by
  unfold buildReadFrame
  exact (frameShows_fillBytes m).putField .cmd (cmdRead.setWidth 32) rfl
    |>.putField .len (BitVec.ofNat 32 lenValue) rfl
    |>.putField .reg (probeSentinel.setWidth 32) rfl
    |>.putField .rsv0 (probeSentinel.setWidth 32) rfl
    |>.putField .rsv1 (probeSentinel.setWidth 32) rfl
    |>.putField .rsv2 (probeSentinel.setWidth 32) rfl
    |>.putField .signature signature rfl
    |>.putField .checksum Config.readChecksum rfl

/-- The frame-so-far of BUILDWR is the write frame's first 14 bytes (41_framecodec.md R105). -/
theorem frameShows_writeFrameSoFar (m : Memory) (w : WireMask) :
    frameShows (writeFrameSoFar m w) ((writeFrameImage w).take 14) := by
  have h := (frameShows_fillBytes m).putField .cmd (cmdWrite.setWidth 32) rfl
    |>.putField .len (BitVec.ofNat 32 lenValue) rfl
    |>.putField .reg (w.setWidth 32) rfl
    |>.putField .rsv0 0#32 rfl
    |>.putField .rsv1 0#32 rfl
    |>.putField .rsv2 0#32 rfl
    |>.putField .signature signature rfl
  rw [show fieldSize .reg = 2 from rfl, littleEndianBytes_wireMask] at h
  exact h

/-! ### The checksum -/

theorem sumBytes_eq_sum (m : Memory) (n : Nat) :
    sumBytes m n = ∑ k ∈ Finset.range n, (readByte m k).toNat := by
  induction n with
  | zero => rfl
  | succ n ih => rw [sumBytes, ih, Finset.sum_range_succ]

theorem csum_eq_sum (m : Memory) :
    csum m = BitVec.ofNat 32 (∑ k ∈ Finset.range 14, (readByte m k).toNat) :=
  congrArg (BitVec.ofNat 32) (sumBytes_eq_sum m 14)

/-- `Csum` reads no offset past 13 (41_framecodec.md R100). -/
theorem csum_congr {m₁ m₂ : Memory} (h : ∀ x < 14, readByte m₁ x = readByte m₂ x) : csum m₁ = csum m₂ := by
  rw [csum_eq_sum, csum_eq_sum, Finset.sum_congr rfl fun k hk => by rw [h k (Finset.mem_range.mp hk)]]

theorem csum_of_frameShows {m : Memory} {image : List Byte} (h : frameShows m image) :
    csum m = BitVec.ofNat 32 (∑ k ∈ Finset.range 14, (image.getD k 0x00#8).toNat) := by
  rw [csum_eq_sum]
  refine congrArg _ (Finset.sum_congr rfl fun k hk => ?_)
  rw [h k ((Finset.mem_range.mp hk).trans (by decide))]

theorem sumBytes_le (m : Memory) (n : Nat) : sumBytes m n ≤ n * 255 := by
  induction n with
  | zero => exact Nat.zero_le _
  | succ n ih =>
    have hbyte := (readByte m n).isLt
    rw [sumBytes]
    omega

/-- 14 bytes never reach 2^32, so the checksum is the plain sum (41_framecodec.md R101). -/
theorem csum_toNat (m : Memory) : (csum m).toNat = sumBytes m 14 := by
  have hle := sumBytes_le m 14
  exact Nat.mod_eq_of_lt (show sumBytes m 14 < 2 ^ 32 by omega)

/-- The fixed bytes of a write frame sum to 489 (41_framecodec.md R101). -/
theorem sum_writeFrameImage (w : WireMask) :
    ∑ k ∈ Finset.range 14, (((writeFrameImage w).take 14).getD k 0x00#8).toNat =
      489 + (w.extractLsb' 0 8).toNat + (w.extractLsb' 8 8).toNat := by
  simp only [Finset.sum_range_succ, Finset.sum_range_zero]
  show 0 + 0xC3 + 0x0E + (w.extractLsb' 0 8).toNat + (w.extractLsb' 8 8).toNat + 0 + 0 + 0 + 0 + 0 + 0 +
    0x48 + 0x49 + 0x44 + 0x43 = _
  omega

theorem csum_writeFrameSoFar (m : Memory) (w : WireMask) : csum (writeFrameSoFar m w) = wireChecksum w := by
  rw [csum_of_frameShows (frameShows_writeFrameSoFar m w), sum_writeFrameImage, wireChecksum]

theorem buildWriteFrame_eq (m : Memory) (w : WireMask) :
    buildWriteFrame m w = putField (writeFrameSoFar m w) .checksum (wireChecksum w) := by
  unfold buildWriteFrame
  exact congrArg (putField _ .checksum) (csum_writeFrameSoFar m w)

/-- BUILDWR's fields, in order, are the write frame (41_framecodec.md R104). -/
theorem frameShows_buildWriteFrame (m : Memory) (w : WireMask) :
    frameShows (buildWriteFrame m w) (writeFrameImage w) := by
  rw [buildWriteFrame_eq]
  exact (frameShows_writeFrameSoFar m w).putField .checksum (wireChecksum w) rfl

/-- The `checksum` field is not summed, so storing it does not change the sum (41_framecodec.md R105). -/
theorem csum_putField_checksum (m : Memory) (v : BitVec 32) : csum (putField m .checksum v) = csum m := by
  refine csum_congr fun x hx => ?_
  have hbefore : ¬ (14 ≤ x ∧ x < 14 + 4) := by omega
  exact (readByte_memWrite m v x (by decide)).trans (if_neg hbefore)

theorem csum_buildWriteFrame (m : Memory) (w : WireMask) : csum (buildWriteFrame m w) = wireChecksum w := by
  rw [buildWriteFrame_eq, csum_putField_checksum, csum_writeFrameSoFar]

theorem csum_buildReadFrame (m : Memory) : csum (buildReadFrame m) = 0x280#32 := by
  rw [csum_of_frameShows (frameShows_buildReadFrame m)]
  simp [readFrameImage, Finset.sum_range_succ]

/-- The four bytes of the `checksum` field, as a word (20_memory.md R43). -/
def storedChecksum (m : Memory) : BitVec 32 :=
  readByte m 17 ++ readByte m 16 ++ readByte m 15 ++ readByte m 14

theorem storedChecksum_buildReadFrame (m : Memory) :
    storedChecksum (buildReadFrame m) = Config.readChecksum := by
  have h := frameShows_buildReadFrame m
  rw [storedChecksum, h 17 (by decide), h 16 (by decide), h 15 (by decide), h 14 (by decide)]
  exact append_bytes_of_word _

theorem storedChecksum_buildWriteFrame (m : Memory) (w : WireMask) :
    storedChecksum (buildWriteFrame m w) = wireChecksum w := by
  have h := frameShows_buildWriteFrame m w
  rw [storedChecksum, h 17 (by decide), h 16 (by decide), h 15 (by decide), h 14 (by decide)]
  exact append_bytes_of_word _

/-! ### The range of the write checksum -/

theorem wireChecksum_toNat (w : WireMask) :
    (wireChecksum w).toNat = 489 + (w.extractLsb' 0 8).toNat + (w.extractLsb' 8 8).toNat := by
  have hlow := (w.extractLsb' 0 8).isLt
  have hhigh := (w.extractLsb' 8 8).isLt
  rw [wireChecksum, BitVec.toNat_ofNat]
  omega

theorem wireChecksum_bounds (w : WireMask) : 489 ≤ (wireChecksum w).toNat ∧ (wireChecksum w).toNat ≤ 999 := by
  have hlow := (w.extractLsb' 0 8).isLt
  have hhigh := (w.extractLsb' 8 8).isLt
  rw [wireChecksum_toNat]
  omega

theorem wireChecksum_one_shift : ∀ k : Fin 16, (wireChecksum (1#16 <<< k.val)).toNat = 489 + 2 ^ (k.val % 8) := by
  decide

/-- Below 1024 the two high bytes of a word are 0, and from 256 on its second byte is 1, 2 or 3. -/
theorem high_bytes_of_checksum_range {v : BitVec 32} (hlow : 256 ≤ v.toNat) (hhigh : v.toNat < 1024) :
    v.extractLsb' 16 8 = 0x00#8 ∧ v.extractLsb' 24 8 = 0x00#8 ∧
      (v.extractLsb' 8 8 = 0x01#8 ∨ v.extractLsb' 8 8 = 0x02#8 ∨ v.extractLsb' 8 8 = 0x03#8) := by
  simp only [← BitVec.toNat_inj, BitVec.extractLsb'_toNat, BitVec.toNat_ofNat, Nat.shiftRight_eq_div_pow]
  omega

theorem wireChecksum_toWire_zero (lut : Lut) : wireChecksum (toWire lut 0x0000#16) = 0x1E9#32 := by
  rw [toWire_zero]
  rfl

theorem wireChecksum_toWire_allOnes (lut : Lut) : wireChecksum (toWire lut 0xFFFF#16) = 0x3E7#32 := by
  rw [toWire_allOnes]
  rfl

/-- One relay's frame has one set mask bit, in the byte that `p(i)` lies in (41_framecodec.md R101). -/
theorem wireChecksum_toWire_one_shift (lut : Lut) {i : Nat} (hi : i < 16) :
    (wireChecksum (toWire lut (1#16 <<< i))).toNat = 489 + 2 ^ (wirePosition lut i % 8) := by
  obtain ⟨hlt, hentry⟩ := wirePosition_spec lut hi
  rw [toWire_one_shift lut hi, hentry]
  exact wireChecksum_one_shift ⟨_, hlt⟩

/-! ### The request of BUILDWR -/

/-- A request word of BUILDWR runs BUILDWR, under whichever name it is read (30_encoding.md R78). -/
theorem step_request_buildwr {s : State} {mask : RelayMask} {rest : List HostEvent}
    (hs : s.script = .request ((mask.setWidth 32 <<< 16) ||| 0x00000004#32) :: rest) :
    step s = .next (performWrite mask { s with script := rest }) :=
  (step_request_of_decode_ok hs (decode_shift_or 4#4 mask)).trans (exec_spellWrite mask _)

/-! ### The `cmd` byte of what an instruction leaves -/

theorem readByte_buildReadFrame_zero (m : Memory) : readByte (buildReadFrame m) 0 = 0xD2#8 :=
  frameShows_buildReadFrame m 0 (by decide)

theorem readByte_buildWriteFrame_zero (m : Memory) (w : WireMask) : readByte (buildWriteFrame m w) 0 = 0xC3#8 :=
  frameShows_buildWriteFrame m w 0 (by decide)

/-- An instruction leaves FRAME as it was, or with READ or WRITE as its command (41_framecodec.md R109). -/
theorem exec_frame_cases {i : Instr} {s t : State} (h : exec i s = .next t) :
    t.frame = s.frame ∨ readByte t.frame 0 = 0xD2#8 ∨ readByte t.frame 0 = 0xC3#8 := by
  obtain ⟨u, hu, hcase⟩ := exec_cases i s
  obtain rfl : u = t := Host.Outcome.next.inj (hu.symm.trans h)
  rcases hcase with ⟨v, rfl⟩ | rfl | ⟨mask, rfl⟩ | rfl | rfl
  · exact .inl rfl
  · exact .inr (.inl (readByte_buildReadFrame_zero _))
  · exact .inr (.inr (readByte_buildWriteFrame_zero _ _))
  · exact .inl rfl
  · exact .inl rfl

/-! ### The statements of 41_framecodec.md -/

/-- Settles O14: DECODE's operand is the two bytes, and the corner cases are laws of `toLogical`. -/
theorem decodeWritesTheResponseMask : Obligations.DecodeWritesTheResponseMask := by
  intro s arg
  have hexec (s : State) : exec (.decode arg) s = .next { s with
      mout := toLogical s.lut (s.respIn[3] ++ s.respIn[2]), mvalid := true, ill := false } := by
    rw [exec_decode, responseReg_eq]
    rfl
  refine ⟨hexec s, fun rest hs => ?_, toLogical_zero s.lut, toLogical_allOnes s.lut⟩
  have hdec : decode (.req32 ((arg.setWidth 32 <<< 16) ||| 0x00000005#32)) = .ok (.decode arg) :=
    decode_shift_or 5#4 arg
  exact (step_request_of_decode_ok hs hdec).trans (hexec _)

/-- Settles O15: the frame that BUILDRD completes with is the read frame, whatever FRAME held. -/
theorem buildrdBuildsTheReadFrame : Obligations.BuildrdBuildsTheReadFrame := by
  refine fun s arg => ⟨_, exec_buildrd arg s, frameShows_buildReadFrame s.frame, rfl, fun rest hs => ?_⟩
  have hdec : decode (.req32 ((arg.setWidth 32 <<< 16) ||| 0x00000003#32)) = .ok (.buildrd arg) :=
    decode_shift_or 3#4 arg
  exact (step_request_of_decode_ok hs hdec).trans (exec_buildrd arg _)

/-- Settles O16: the frame that BUILDWR completes with is the write frame of its mask, and the checksum
of that frame is known. -/
theorem buildwrBuildsTheWriteFrame : Obligations.BuildwrBuildsTheWriteFrame := by
  intro s mask
  have hsum : csum (performWrite mask s).frame = wireChecksum (toWire s.lut mask) := by
    rw [performWrite_frame, csum_buildWriteFrame]
  refine ⟨_, exec_buildwr mask s, frameShows_buildWriteFrame s.frame _, hsum, rfl,
    fun rest hs => step_request_buildwr hs, ?_, ?_, ?_⟩
  · rintro rfl
    exact hsum.trans (wireChecksum_toWire_zero s.lut)
  · rintro rfl
    exact hsum.trans (wireChecksum_toWire_allOnes s.lut)
  · rw [hsum]
    exact (wireChecksum_bounds _).2

/-- Settles O18: an instruction that writes FRAME leaves another `cmd`, and a word with that low byte
has reserved bits set. -/
theorem noOperationBuildsAnEraseFrame : Obligations.NoOperationBuildsAnEraseFrame := by
  refine ⟨fun i s t h herase => ?_, fun w hw => ⟨_, decode_req32_of_rsv_ne (reqRsv_ne_zero_of_low_byte hw)⟩⟩
  rcases exec_frame_cases h with hkept | hread | hwrite
  · exact hkept
  · exact absurd (herase.symm.trans hread) (by decide)
  · exact absurd (herase.symm.trans hwrite) (by decide)

/-- Settles O29: what BUILDWR stores and what the finished frame sums to are the same word. -/
theorem writeChecksumIsTheByteSum : Obligations.WriteChecksumIsTheByteSum := by
  refine ⟨csum_eq_sum, fun _ _ => csum_congr, fun s mask => ⟨_, exec_buildwr mask s, ?_⟩⟩
  rw [performWrite_frame, csum_buildWriteFrame]
  exact storedChecksum_buildWriteFrame _ _

/-- Settles O30: the checksum is 489 and the two mask bytes, which bounds its own bytes. -/
theorem writeChecksumBounds : Obligations.WriteChecksumBounds := by
  refine ⟨fun m => ⟨sumBytes_le m 14, csum_toNat m⟩, fun s mask => ⟨_, exec_buildwr mask s, ?_⟩⟩
  have hframe := frameShows_buildWriteFrame s.frame (toWire s.lut mask)
  obtain ⟨hlow, hhigh⟩ := wireChecksum_bounds (toWire s.lut mask)
  obtain ⟨h16, h17, h15⟩ := high_bytes_of_checksum_range (v := wireChecksum (toWire s.lut mask))
    (by omega) (by omega)
  rw [performWrite_frame, csum_buildWriteFrame]
  refine ⟨wireChecksum_toNat _, hlow, hhigh, ?_, fun x h4 h9 => ?_, ?_, ?_, ?_, ?_, ?_, ?_⟩
  · rw [hframe 0 (by decide), hframe 1 (by decide), hframe 10 (by decide), hframe 11 (by decide),
      hframe 12 (by decide), hframe 13 (by decide)]
    rfl
  · rw [hframe x (by omega)]
    interval_cases x <;> rfl
  · exact (hframe 16 (by decide)).trans h16
  · exact (hframe 17 (by decide)).trans h17
  · rw [hframe 15 (by decide)]
    exact h15
  · rintro rfl
    exact congrArg BitVec.toNat (wireChecksum_toWire_zero s.lut)
  · rintro rfl
    exact congrArg BitVec.toNat (wireChecksum_toWire_allOnes s.lut)
  · rintro i hi rfl
    exact wireChecksum_toWire_one_shift s.lut hi

/-- Settles O31: the last four bytes of the read frame are the parameter's, and the others are fixed. -/
theorem readChecksumIsTheParameter : Obligations.ReadChecksumIsTheParameter :=
  fun s arg => ⟨_, exec_buildrd arg s, storedChecksum_buildReadFrame s.frame, csum_buildReadFrame s.frame⟩

/-- Settles O11: the word `ARG << 16` has OP 0, and NOP only clears ILL. -/
theorem nopClearsOnlyIll : Obligations.NopClearsOnlyIll := by
  refine fun s arg => ⟨exec_nop arg s, fun rest hs => ?_⟩
  have hdec : decode (.req32 (arg.setWidth 32 <<< 16)) = .ok (.nop arg) := by
    have h := decode_shift_or 0#4 arg
    rwa [BitVec.setWidth_zero, BitVec.or_zero] at h
  exact (step_request_of_decode_ok hs hdec).trans (exec_nop arg _)

end Machine
end Sys2Proof
end

section
/-! SUPPORT. Which request is a DECODE, and which instructions read RESP_IN: the layer under the statements of
70_reset_and_hazards.md. -/

namespace Sys2Proof

/-- A request word read as DECODE has OP 5 and RSV zero (30_encoding.md R63): BUILDWR's spelling is never DECODE. -/
theorem reqFields_of_decode_eq_decode {w : ReqWord} {arg : BitVec 16}
    (h : decode (.req32 w) = .ok (.decode arg)) : reqOp w = 5#4 ∧ reqRsv w = 0#12 := by
  obtain ⟨hrsv, hi⟩ := decode_req32_ok_cases h
  rcases hi with ⟨-, hi⟩ | ⟨-, hi⟩ | ⟨-, hi⟩ | ⟨-, hi⟩ | ⟨-, hi⟩ | ⟨hop, -⟩
  case inr.inr.inr.inr.inl =>
    have hexpand := congrArg Instr.expand hi
    rw [expand_spellWrite] at hexpand
    nomatch hexpand
  case inr.inr.inr.inr.inr => exact ⟨hop, hrsv⟩
  all_goals nomatch hi

namespace Machine

/-- Every instruction but DECODE completes alike whatever RESP_IN carries (70_reset_and_hazards.md R155). -/
theorem exec_ignores_respIn {i : Instr} (hi : ∀ arg, i ≠ .decode arg) (s : State) (resp : Vector Byte 64) :
    ∃ t, exec i s = .next t ∧ exec i { s with respIn := resp } = .next { t with respIn := resp } := by
  cases i
  case decode arg => exact absurd rfl (hi arg)
  all_goals exact ⟨_, rfl, rfl⟩

/-- A request that is no DECODE, legal or not, completes alike whatever RESP_IN carries. -/
theorem performRequest_ignores_respIn {w : ReqWord} (hw : ¬ (reqOp w = 5#4 ∧ reqRsv w = 0#12)) (s : State)
    (resp : Vector Byte 64) :
    ∃ t, performRequest w s = .next t ∧
      performRequest w { s with respIn := resp } = .next { t with respIn := resp } := by
  cases h : decode (.req32 w) with
  | error r => exact ⟨_, performRequest_of_decode_error h _, performRequest_of_decode_error h _⟩
  | ok i =>
    have hi (arg : BitVec 16) : i ≠ .decode arg := by
      rintro rfl
      exact hw (reqFields_of_decode_eq_decode h)
    simp only [performRequest_of_decode_ok h]
    exact exec_ignores_respIn hi s resp

/-! ### The statements of 70_reset_and_hazards.md -/

/-- Settles O33: of all instructions only DECODE reads the port, and only OP 5 with RSV zero is a DECODE. -/
theorem responseIsSampledOnlyByDecode : Obligations.ResponseIsSampledOnlyByDecode := by
  refine ⟨fun s w rest resp hs hw => ?_, fun s bytes rest hs => step_cons hs⟩
  obtain ⟨t, ht, hresp⟩ := performRequest_ignores_respIn hw { s with script := rest } resp
  have hs' : State.script { s with respIn := resp } = .request w :: rest := hs
  exact ⟨t, (step_cons hs).trans ht, (step_cons hs').trans hresp⟩

/-- Settles O46: the reset event is `resetRegisters`, and an empty FRAME reads as zeros. -/
theorem resetLeavesTheResetValues : Obligations.ResetLeavesTheResetValues := by
  refine ⟨⟨fun x _ => readByte_nil x, rfl, rfl, rfl, rfl⟩, fun s rest hs => ?_⟩
  exact ⟨resetRegisters { s with script := rest }, step_cons hs, fun x _ => readByte_nil x, rfl, rfl, rfl, rfl,
    rfl, rfl⟩

end Machine
end Sys2Proof
end

section
/-! SUPPORT. The encoder and the decoder against each other, a canonical memory told by its bytes, what every event
does to the block, and the block's invariant: the layer under the statements about the whole block. -/

namespace Sys2Proof

/-! ### The encoder and the decoder -/

theorem decode_reqWord (op : BitVec 4) (arg : BitVec 16) : decode (.req32 (reqWord op arg)) = decodeOp op arg := by
  rw [decode_req32_of_op (reqRsv_reqWord op arg) (reqOp_reqWord op arg), reqArg_reqWord]

/-- The three names of BUILDWR (30_encoding.md R78), by the mask. -/
theorem spellWrite_cases (mask : RelayMask) :
    mask = 0xFFFF#16 ∧ spellWrite mask = .allon ∨ mask = 0x0000#16 ∧ spellWrite mask = .alloff ∨
      plainWriteMask mask = true ∧ spellWrite mask = .buildwr mask := by
  by_cases hon : mask = 0xFFFF#16
  · exact .inl ⟨hon, if_pos hon⟩
  by_cases hoff : mask = 0x0000#16
  · exact .inr (.inl ⟨hoff, (if_neg hon).trans (if_pos hoff)⟩)
  · exact .inr (.inr ⟨by simp [plainWriteMask, hon, hoff], (if_neg hon).trans (if_neg hoff)⟩)

theorem spellWrite_of_plain {mask : RelayMask} (h : plainWriteMask mask = true) :
    spellWrite mask = .buildwr mask := by
  rcases spellWrite_cases mask with ⟨rfl, -⟩ | ⟨rfl, -⟩ | ⟨-, hspell⟩
  · exact absurd h (by decide)
  · exact absurd h (by decide)
  · exact hspell

theorem spellWrite_wellFormed (mask : RelayMask) : (spellWrite mask).wellFormed = true := by
  rcases spellWrite_cases mask with ⟨-, hspell⟩ | ⟨-, hspell⟩ | ⟨hplain, hspell⟩
  · rw [hspell]; rfl
  · rw [hspell]; rfl
  · rw [hspell]; exact hplain

/-- The word of BUILDWR is the same under its three names (30_encoding.md R78). -/
theorem encode_spellWrite (mask : RelayMask) : encode (spellWrite mask) = .req32 (reqWord 0x4#4 mask) := by
  rcases spellWrite_cases mask with ⟨rfl, hspell⟩ | ⟨rfl, hspell⟩ | ⟨-, hspell⟩
  · rw [hspell]; decide
  · rw [hspell]; decide
  · rw [hspell]; rfl

/-- The three frame command codes (30_encoding.md R67). -/
theorem decode_frameCmd8_ok_cases {cmd : Byte} {i : Instr} (h : decode (.frameCmd8 cmd) = .ok i) :
    cmd = 0xD2#8 ∧ i = .frameCmdRead ∨ cmd = 0xC3#8 ∧ i = .frameCmdWrite ∨
      cmd = 0x71#8 ∧ i = .frameCmdErase := by
  simp only [decode, decodeFrameCmd] at h
  split at h
  case h_1 hcmd => exact .inl ⟨BitVec.eq_of_toNat_eq hcmd, (Except.ok.inj h).symm⟩
  case h_2 hcmd => exact .inr (.inl ⟨BitVec.eq_of_toNat_eq hcmd, (Except.ok.inj h).symm⟩)
  case h_3 hcmd => exact .inr (.inr ⟨BitVec.eq_of_toNat_eq hcmd, (Except.ok.inj h).symm⟩)
  case h_4 => nomatch h

/-- What is read from a request word is the spelling the encoder knows, and its word is the word read. -/
theorem encode_of_decode_req32 {w : ReqWord} {i : Instr} (h : decode (.req32 w) = .ok i) :
    i.wellFormed = true ∧ encode i = .req32 w := by
  obtain ⟨hrsv, hi⟩ := decode_req32_ok_cases h
  rw [← reqWord_of_fields w hrsv]
  rcases hi with ⟨hop, rfl⟩ | ⟨hop, rfl⟩ | ⟨hop, rfl⟩ | ⟨hop, rfl⟩ | ⟨hop, rfl⟩ | ⟨hop, rfl⟩
  case inr.inr.inr.inr.inl => rw [hop]; exact ⟨spellWrite_wellFormed _, encode_spellWrite _⟩
  all_goals rw [hop]; exact ⟨rfl, rfl⟩

theorem encode_of_decode_frameCmd8 {cmd : Byte} {i : Instr} (h : decode (.frameCmd8 cmd) = .ok i) :
    i.wellFormed = true ∧ encode i = .frameCmd8 cmd := by
  rcases decode_frameCmd8_ok_cases h with ⟨rfl, rfl⟩ | ⟨rfl, rfl⟩ | ⟨rfl, rfl⟩ <;> exact ⟨rfl, rfl⟩

/-- Bit 6 of a word lies in RSV (30_encoding.md R61). -/
theorem reqRsv_ne_zero_of_bit_six {w : ReqWord} (h : w.getLsbD 6 = true) : reqRsv w ≠ 0#12 := by
  intro hrsv
  have hclear : w.getLsbD 6 = false := by simpa [reqRsv] using congrArg (BitVec.getLsbD · 2) hrsv
  exact absurd h (ne_true_of_eq_false hclear)

/-- Bit 6 is set in each of the three frame command codes, so a word with such a low byte is rejected. -/
theorem decode_req32_of_low_byte_frameCmd {w : ReqWord} {i : Instr}
    (h : decode (.frameCmd8 (w.extractLsb' 0 8)) = .ok i) :
    decode (.req32 w) = .error .reservedBitsSet := by
  have hbyte : (w.extractLsb' 0 8).getLsbD 6 = true := by
    rcases decode_frameCmd8_ok_cases h with ⟨hcmd, -⟩ | ⟨hcmd, -⟩ | ⟨hcmd, -⟩ <;> rw [hcmd] <;> rfl
  exact decode_req32_of_rsv_ne (reqRsv_ne_zero_of_bit_six (by simpa using hbyte))

theorem decodeTableWord_request (w : Nat) :
    decodeTableWord 32 w = (decode (.req32 ((BitVec.ofNat 32 w).setWidth 32))).toOption := rfl

theorem decode_of_decodeTableWord {w : Nat} {i : Instr} (h : decodeTableWord 32 w = some i) :
    decode (.req32 ((BitVec.ofNat 32 w).setWidth 32)) = .ok i := by
  rw [decodeTableWord_request] at h
  cases hdec : decode (.req32 ((BitVec.ofNat 32 w).setWidth 32)) with
  | ok j =>
    rw [hdec] at h
    exact congrArg Except.ok (Option.some.inj h)
  | error r =>
    rw [hdec] at h
    nomatch h

namespace Machine

/-- Each frame command code is an illegal request of the block (30_encoding.md R64; log entry 5). -/
theorem exec_of_decode_frameCmd8 {cmd : Byte} {i : Instr} (h : decode (.frameCmd8 cmd) = .ok i) (s : State) :
    exec i s = .next (raiseIllegalRequest s) := by
  rcases decode_frameCmd8_ok_cases h with ⟨-, rfl⟩ | ⟨-, rfl⟩ | ⟨-, rfl⟩
  · exact exec_frameCmdRead s
  · exact exec_frameCmdWrite s
  · exact exec_frameCmdErase s

/-! ### A canonical memory and its bytes -/

theorem canonicalFrom_cons_iff {lo a : Nat} {b : Byte} {m : Memory} :
    canonicalFrom lo ((a, b) :: m) = true ↔
      lo ≤ a ∧ a < 65 ∧ b ≠ 0x00#8 ∧ canonicalFrom (a + 1) m = true := by
  simp only [canonicalFrom, Bool.and_eq_true, decide_eq_true_eq, bne_iff_ne, and_assoc]
  rfl

/-- An offset below the first listed one reads as an unlisted offset. -/
theorem readByte_of_canonicalFrom {lo x : Nat} {m : Memory} (h : canonicalFrom lo m = true) (hx : x < lo) :
    readByte m x = 0x00#8 := by
  induction m generalizing lo with
  | nil => rfl
  | cons c m ih =>
    obtain ⟨a, b⟩ := c
    obtain ⟨hlo, -, -, htail⟩ := canonicalFrom_cons_iff.mp h
    rw [readByte_cons, if_neg (by omega)]
    exact ih htail (by omega)

theorem le_of_readByte_ne_zero {lo x : Nat} {m : Memory} (h : canonicalFrom lo m = true)
    (hread : readByte m x ≠ 0x00#8) : lo ≤ x :=
  not_lt.mp fun hx => hread (readByte_of_canonicalFrom h hx)

theorem readByte_head (a : Nat) (b : Byte) (m : Memory) : readByte ((a, b) :: m) a = b := if_pos rfl

theorem canonicalFrom_head {lo a : Nat} {b : Byte} {m : Memory} (h : canonicalFrom lo ((a, b) :: m) = true) :
    canonicalFrom a ((a, b) :: m) = true := by
  obtain ⟨-, hlt, hne, htail⟩ := canonicalFrom_cons_iff.mp h
  exact canonicalFrom_cons_iff.mpr ⟨le_rfl, hlt, hne, htail⟩

theorem eq_nil_of_readByte_eq_zero {lo : Nat} {m : Memory} (h : canonicalFrom lo m = true)
    (hread : ∀ x < 65, readByte m x = 0x00#8) : m = [] := by
  cases m with
  | nil => rfl
  | cons c m =>
    obtain ⟨a, b⟩ := c
    obtain ⟨-, hlt, hne, -⟩ := canonicalFrom_cons_iff.mp h
    exact absurd ((readByte_head a b m).symm.trans (hread a hlt)) hne

/-- Two canonical memories with the same bytes list the same pairs: the first offset of each does not read
0x00, so neither starts before the other. -/
theorem eq_of_canonicalFrom_of_readByte_eq {lo : Nat} {m₁ m₂ : Memory} (h₁ : canonicalFrom lo m₁ = true)
    (h₂ : canonicalFrom lo m₂ = true) (hread : ∀ x < 65, readByte m₁ x = readByte m₂ x) : m₁ = m₂ := by
  induction m₁ generalizing lo m₂ with
  | nil => exact (eq_nil_of_readByte_eq_zero h₂ fun x hx => (hread x hx).symm).symm
  | cons c₁ m₁ ih =>
    cases m₂ with
    | nil => exact eq_nil_of_readByte_eq_zero h₁ hread
    | cons c₂ m₂ =>
      obtain ⟨a, b⟩ := c₁
      obtain ⟨a₂, b₂⟩ := c₂
      obtain ⟨-, hlt₁, hne₁, htail₁⟩ := canonicalFrom_cons_iff.mp h₁
      obtain ⟨-, hlt₂, hne₂, htail₂⟩ := canonicalFrom_cons_iff.mp h₂
      have hle : a ≤ a₂ := le_of_readByte_ne_zero (canonicalFrom_head h₁)
        (by rwa [hread a₂ hlt₂, readByte_head])
      have hge : a₂ ≤ a := le_of_readByte_ne_zero (canonicalFrom_head h₂)
        (by rwa [← hread a hlt₁, readByte_head])
      obtain rfl : a = a₂ := Nat.le_antisymm hle hge
      obtain rfl : b = b₂ := by simpa only [readByte_head] using hread a hlt₁
      refine congrArg _ (ih htail₁ htail₂ fun x hx => ?_)
      by_cases hxa : x = a
      · rw [hxa, readByte_of_canonicalFrom htail₁ (by omega), readByte_of_canonicalFrom htail₂ (by omega)]
      · simpa [readByte_cons, Ne.symm hxa] using hread x hx

/-! ### What an instruction writes and what its results depend on -/

/-- The columns "written by" of 10_state.md R20, read as what each instruction leaves. -/
theorem exec_keeps (i : Instr) (s : State) :
    ∃ t, exec i s = .next t ∧
      (isBuildOp i = false → t.frame = s.frame ∧ t.fsize = s.fsize) ∧
      (isMaskOp i = false → t.mout = s.mout ∧ t.mvalid = s.mvalid) ∧
      t.lut = s.lut ∧ t.respIn = s.respIn ∧ t.script = s.script := by
  cases i
  case towire | tological | decode => exact ⟨_, rfl, fun _ => ⟨rfl, rfl⟩, nofun, rfl, rfl, rfl⟩
  case buildrd | buildwr | allon | alloff => exact ⟨_, rfl, nofun, fun _ => ⟨rfl, rfl⟩, rfl, rfl, rfl⟩
  all_goals exact ⟨_, rfl, fun _ => ⟨rfl, rfl⟩, fun _ => ⟨rfl, rfl⟩, rfl, rfl, rfl⟩

/-- Two memories that show one image have the same bytes. -/
theorem frameShows.readByte_eq {m₁ m₂ : Memory} {image : List Byte} (h₁ : frameShows m₁ image)
    (h₂ : frameShows m₂ image) : ∀ x < 65, readByte m₁ x = readByte m₂ x :=
  fun x hx => (h₁ x hx).trans (h₂ x hx).symm

theorem frameShows_performWrite (mask : RelayMask) (s : State) :
    frameShows (performWrite mask s).frame (writeFrameImage (toWire s.lut mask)) := by
  rw [performWrite_frame]
  exact frameShows_buildWriteFrame _ _

theorem performWrite_readByte_congr (mask : RelayMask) {s₁ s₂ : State} (hlut : s₁.lut = s₂.lut) :
    ∀ x < 65, readByte (performWrite mask s₁).frame x = readByte (performWrite mask s₂).frame x := by
  refine (frameShows_performWrite mask s₁).readByte_eq ?_
  rw [hlut]
  exact frameShows_performWrite mask s₂

/-- A build is asked for by OP 3 or OP 4 (30_encoding.md R63). -/
theorem reqOp_of_decode_isBuildOp {w : ReqWord} {i : Instr} (h : decode (.req32 w) = .ok i)
    (hi : isBuildOp i = true) : reqOp w = 3#4 ∨ reqOp w = 4#4 := by
  obtain ⟨-, hcase⟩ := decode_req32_ok_cases h
  rcases hcase with ⟨-, rfl⟩ | ⟨-, rfl⟩ | ⟨-, rfl⟩ | ⟨hop, -⟩ | ⟨hop, -⟩ | ⟨-, rfl⟩
  case inr.inr.inr.inl => exact .inl hop
  case inr.inr.inr.inr.inl => exact .inr hop
  all_goals nomatch hi

/-- A request that changes FRAME or FSIZE is a legal BUILDRD or BUILDWR (10_state.md R25, R26). -/
theorem performRequest_frame_change {w : ReqWord} {s t : State} (h : performRequest w s = .next t)
    (hchange : t.frame ≠ s.frame ∨ t.fsize ≠ s.fsize) :
    illegalWord w = false ∧ (reqOp w = 3#4 ∨ reqOp w = 4#4) := by
  cases hdec : decode (.req32 w) with
  | error r =>
    rw [performRequest_of_decode_error hdec] at h
    obtain rfl := Host.Outcome.next.inj h
    simp at hchange
  | ok i =>
    refine ⟨(illegalWord_eq_false_iff_decodes w).mpr ⟨i, hdec⟩, reqOp_of_decode_isBuildOp hdec ?_⟩
    rw [performRequest_of_decode_ok hdec] at h
    obtain ⟨u, hu, hkeeps, -⟩ := exec_keeps i s
    obtain rfl : u = t := Host.Outcome.next.inj (hu.symm.trans h)
    by_contra hbuild
    obtain ⟨hframe, hfsize⟩ := hkeeps (Bool.not_eq_true _ ▸ hbuild)
    exact hchange.elim (· hframe) (· hfsize)

/-! ### The step of each host event -/

theorem step_idle {s : State} (hs : s.script = []) : step s = .next s := by
  simp [step, performNext, hs]

theorem step_takeFrame {s : State} {rest : List HostEvent} (hs : s.script = .takeFrame :: rest) :
    step s = if s.fsize = 0#7 then .fault .frameNotBuilt else .next { s with script := rest } := by
  rw [step_cons hs]
  by_cases h0 : s.fsize = 0#7 <;> simp [performEvent, hostTakeFrame, afterRead, h0]

theorem step_readFrameByte {s : State} {x : Nat} {rest : List HostEvent}
    (hs : s.script = .readFrameByte x :: rest) :
    step s = if s.fsize = 0#7 then .fault .frameNotBuilt
      else if x < 65 then .next { s with script := rest } else .fault (.noSuchFrameOffset x) := by
  rw [step_cons hs]
  by_cases h0 : s.fsize = 0#7
  · simp [performEvent, hostReadFrameByte, afterRead, h0]
  · by_cases hx : x < 65 <;> simp [performEvent, hostReadFrameByte, afterRead, frameBytes, h0, hx]

theorem hostTakeFrame_of_built {s : State} (h : s.fsize ≠ 0#7) :
    hostTakeFrame s = .ok ((List.range s.fsize.toNat).map (readByte s.frame)) := if_neg h

theorem hostReadFrameByte_of_built {s : State} {x : Nat} (h : s.fsize ≠ 0#7) (hx : x < 65) :
    hostReadFrameByte s x = .ok (readByte s.frame x) := (if_neg h).trans (if_pos hx)

/-- A host read's answer does not depend on the script, so neither does its event. -/
theorem afterRead_ignores_script {α : Type} {r : Except Fault α} {s t : State} (h : afterRead r s = .next t) :
    t.script = s.script ∧ ∀ later, afterRead r { s with script := later } = .next { t with script := later } := by
  obtain ⟨rfl, v, rfl⟩ := afterRead_next h
  exact ⟨rfl, fun _ => rfl⟩

theorem performRequest_ignores_script {w : ReqWord} {s t : State} (h : performRequest w s = .next t) :
    t.script = s.script ∧
      ∀ later, performRequest w { s with script := later } = .next { t with script := later } := by
  cases hdec : decode (.req32 w) with
  | error r =>
    simp only [performRequest_of_decode_error hdec] at h ⊢
    obtain rfl := Host.Outcome.next.inj h
    exact ⟨rfl, fun _ => rfl⟩
  | ok i =>
    simp only [performRequest_of_decode_ok hdec] at h ⊢
    refine ⟨?_, fun later => ?_⟩
    · obtain ⟨u, hu, hscript, -⟩ := exec_ignores_script i s []
      obtain rfl : u = t := Host.Outcome.next.inj (hu.symm.trans h)
      exact hscript
    · obtain ⟨u, hu, -, hlater⟩ := exec_ignores_script i s later
      obtain rfl : u = t := Host.Outcome.next.inj (hu.symm.trans h)
      exact hlater

/-- No event reads or changes what the host does next (20_memory.md R49). -/
theorem performEvent_ignores_script {e : HostEvent} {s t : State} (h : performEvent e s = .next t) :
    t.script = s.script ∧
      ∀ later, performEvent e { s with script := later } = .next { t with script := later } := by
  cases e with
  | request w => exact performRequest_ignores_script h
  | takeFrame => exact afterRead_ignores_script h
  | readFrameByte x => exact afterRead_ignores_script h
  | takeMask => exact afterRead_ignores_script h
  | secondHost => nomatch h
  | supplyResponse bytes | readStatus | reset =>
    obtain rfl := Host.Outcome.next.inj h
    exact ⟨rfl, fun _ => rfl⟩

theorem step_ignores_later_events {s t : State} {e : HostEvent} {rest : List HostEvent}
    (hs : s.script = e :: rest) (h : step s = .next t) :
    t.script = rest ∧ ∀ later, step { s with script := e :: later } = .next { t with script := later } := by
  rw [step_cons hs] at h
  obtain ⟨hscript, hlater⟩ := performEvent_ignores_script h
  refine ⟨hscript, fun later => ?_⟩
  have hs' : State.script { s with script := e :: later } = e :: later := rfl
  exact (step_cons hs').trans (hlater later)

/-! ### The invariant

The invariant says nothing of the script, so an event may be removed from it first. -/

theorem inv_withScript {s : State} (h : s.Inv) (rest : List HostEvent) : State.Inv { s with script := rest } := h

theorem inv_setIll {s : State} (h : s.Inv) (b : Bool) : (setIll b s).Inv := h

theorem inv_driveResponse {s : State} (h : s.Inv) (bytes : Vector Byte 64) : (driveResponse bytes s).Inv := h

/-- A mask operation leaves FRAME and FSIZE, and MVALID is then set. -/
theorem inv_completeMask {s : State} (h : s.Inv) (v : BitVec 16) : (completeMask v s).Inv := by
  obtain ⟨hwf, hframe, -⟩ := h
  exact ⟨hwf, hframe, nofun⟩

theorem inv_buildReadFrame {s : State} (h : s.Inv) :
    (completeFrame (buildReadFrame s.frame) readFrameSize s).Inv := by
  obtain ⟨hwf, -, hmask⟩ := h
  exact ⟨buildReadFrame_wf hwf, .inr (.inl ⟨rfl, frameShows_buildReadFrame s.frame⟩), hmask⟩

theorem inv_performWrite {s : State} (h : s.Inv) (mask : RelayMask) : (performWrite mask s).Inv := by
  obtain ⟨hwf, -, hmask⟩ := h
  exact ⟨buildWriteFrame_wf _ hwf, .inr (.inr ⟨rfl, mask, frameShows_performWrite mask s⟩), hmask⟩

theorem frameShows_nil : frameShows [] [] := fun _ _ => rfl

/-- The reset values meet the invariant, whatever they replace (70_reset_and_hazards.md R150). -/
theorem inv_resetRegisters (s : State) : (resetRegisters s).Inv :=
  ⟨rfl, .inl ⟨rfl, frameShows_nil⟩, fun _ => rfl⟩

theorem inv_reset : State.reset.Inv := ⟨reset_frame_wf, .inl ⟨rfl, frameShows_nil⟩, fun _ => rfl⟩

/-! ### The frame the host takes -/

/-- A built frame starts with READ and has 64 bytes, or with WRITE and has 65 (30_encoding.md R74). -/
theorem cmd_and_fsize_of_inv {s : State} (h : s.Inv) (hbuilt : s.fsize ≠ 0#7) :
    readByte s.frame 0 = 0xD2#8 ∧ s.fsize = 64#7 ∨ readByte s.frame 0 = 0xC3#8 ∧ s.fsize = 65#7 := by
  obtain ⟨-, hframe, -⟩ := h
  rcases hframe with ⟨hsize, -⟩ | ⟨hsize, hread⟩ | ⟨hsize, mask, hwrite⟩
  · exact absurd hsize hbuilt
  · exact .inl ⟨hread 0 (by decide), hsize⟩
  · exact .inr ⟨hwrite 0 (by decide), hsize⟩

theorem hostTakeFrame_cons {s : State} {n : Nat} (h : s.fsize.toNat = n + 1) :
    ∃ bytes, hostTakeFrame s = .ok (readByte s.frame 0 :: bytes) ∧ bytes.length = n := by
  have hbuilt : s.fsize ≠ 0#7 := by
    rintro h0
    simp [h0] at h
  rw [hostTakeFrame_of_built hbuilt, h, List.range_succ_eq_map, List.map_cons]
  exact ⟨_, rfl, by simp⟩

/-! ### The statements about the whole block -/

/-- Settles O1: the fields of a word put together are the fields read, and a plain mask is spelled BUILDWR. -/
theorem decodeInvertsEncode : Obligations.DecodeInvertsEncode := by
  intro i hi
  cases i with
  | nop arg => exact decode_reqWord 0x0#4 arg
  | towire mask => exact decode_reqWord 0x1#4 mask
  | tological mask => exact decode_reqWord 0x2#4 mask
  | buildrd arg => exact decode_reqWord 0x3#4 arg
  | buildwr mask => exact (decode_reqWord 0x4#4 mask).trans (congrArg Except.ok (spellWrite_of_plain hi))
  | decode arg => exact decode_reqWord 0x5#4 arg
  | frameCmdRead | frameCmdWrite | frameCmdErase => rfl
  | allon => exact decode_reqWord 0x4#4 0xFFFF#16
  | alloff => exact decode_reqWord 0x4#4 0x0000#16

/-- Settles O49: each change a step can make keeps the invariant; the builds need FRAME canonical before. -/
theorem stepKeepsTheInvariant : Obligations.StepKeepsTheInvariant := by
  intro s t hinv h
  cases stepChange_of_step h with
  | idle => exact hinv
  | writesMask w rest _ v => exact inv_completeMask (inv_withScript hinv rest) v
  | buildsReadFrame w rest => exact inv_buildReadFrame (inv_withScript hinv rest)
  | buildsWriteFrame w rest _ mask => exact inv_performWrite (inv_withScript hinv rest) mask
  | setsIll w rest _ b => exact inv_setIll (inv_withScript hinv rest) b
  | drivesResponse bytes rest => exact inv_driveResponse (inv_withScript hinv rest) bytes
  | resets rest => exact inv_resetRegisters _
  | hostReads e rest => exact inv_withScript hinv rest

/-- Settles O2, for each of the two encodings. -/
theorem decodedCodesReencode : Obligations.DecodedCodesReencode := by
  intro c i h
  cases c with
  | req32 w => exact encode_of_decode_req32 h
  | frameCmd8 cmd => exact encode_of_decode_frameCmd8 h

/-- Settles O7: the codes' meaning is IllegalRequest, and a word with such a low byte has RSV nonzero. -/
theorem frameCommandCodesAreIllegalRequests : Obligations.FrameCommandCodesAreIllegalRequests := by
  refine ⟨fun s => ⟨exec_frameCmdRead s, exec_frameCmdWrite s, exec_frameCmdErase s⟩,
    fun s w rest i hs h => ?_⟩
  rw [exec_of_decode_frameCmd8 h]
  exact step_request_of_decode_error hs (decode_req32_of_low_byte_frameCmd h)

/-- Settles O17: `toWire` fixes the full and the empty mask, so the write frame's image is the same under
every table. -/
theorem allOnAndAllOffBuildFixedFrames : Obligations.AllOnAndAllOffBuildFixedFrames := by
  intro s
  have hon := frameShows_performWrite 0xFFFF#16 s
  have hoff := frameShows_performWrite 0x0000#16 s
  rw [toWire_allOnes] at hon
  rw [toWire_zero] at hoff
  exact ⟨_, _, exec_allon s, rfl, hon, exec_alloff s, rfl, hoff⟩

/-- Settles O28, with the canonical form read from offset 0 on. -/
theorem canonicalFrameIsItsBytes : Obligations.CanonicalFrameIsItsBytes :=
  fun _ _ => eq_of_canonicalFrom_of_readByte_eq

/-- Settles O34: a mask is a function of LUT, ARG and RESP_IN; a frame's bytes are those of an image that
only LUT and ARG determine. -/
theorem resultsDependOnInputsAlone : Obligations.ResultsDependOnInputsAlone := by
  intro i s₁ s₂ hlut hresp
  cases i
  case towire | tological | decode =>
    exact ⟨_, _, rfl, rfl, rfl, fun _ => ⟨by simp [hlut, hresp], rfl, rfl⟩, nofun⟩
  case buildrd arg =>
    exact ⟨_, _, exec_buildrd arg s₁, exec_buildrd arg s₂, rfl, nofun, fun _ => ⟨rfl,
      (frameShows_buildReadFrame s₁.frame).readByte_eq (frameShows_buildReadFrame s₂.frame)⟩⟩
  case buildwr | allon | alloff =>
    exact ⟨_, _, rfl, rfl, rfl, nofun, fun _ => ⟨rfl, performWrite_readByte_congr _ hlut⟩⟩
  all_goals exact ⟨_, _, rfl, rfl, rfl, nofun, nofun⟩

/-- Settles O37: of the events that answer, only a request and the reset can reach FRAME or FSIZE. -/
theorem onlyBuildsAndResetWriteFrame : Obligations.OnlyBuildsAndResetWriteFrame := by
  intro s t h hchange
  rcases step_next_cases h with ⟨-, rfl⟩ | ⟨e, rest, hs, hcase⟩
  · simp at hchange
  rcases hcase with ⟨w, rfl, hreq⟩ | ⟨bytes, rfl, rfl⟩ | ⟨rfl, -⟩ | ⟨-, rfl⟩
  · obtain ⟨hlegal, hop⟩ := performRequest_frame_change hreq hchange
    exact .inl ⟨w, rest, hs, hlegal, hop⟩
  · simp at hchange
  · exact .inr ⟨rest, hs⟩
  · simp at hchange

/-- Settles O39: the invariant ties the `cmd` byte to FSIZE, which is the length taken. -/
theorem takenFrameMatchesItsCommand : Obligations.TakenFrameMatchesItsCommand := by
  intro s hinv hbuilt
  rcases cmd_and_fsize_of_inv hinv hbuilt with ⟨hcmd, hsize⟩ | ⟨hcmd, hsize⟩
  · obtain ⟨bytes, htake, hlen⟩ := hostTakeFrame_cons (s := s) (n := 63) (by rw [hsize]; rfl)
    exact ⟨_, bytes, htake, by rw [hcmd, hlen]; rfl, .inl ⟨hcmd, by omega⟩⟩
  · obtain ⟨bytes, htake, hlen⟩ := hostTakeFrame_cons (s := s) (n := 64) (by rw [hsize]; rfl)
    exact ⟨_, bytes, htake, by rw [hcmd, hlen]; rfl, .inr ⟨hcmd, by omega⟩⟩

/-- Settles O44, event by event; the last clause holds because no event reads the script. -/
theorem eventsArePerformedInOrder : Obligations.EventsArePerformedInOrder :=
  fun _ _ => ⟨fun _ _ => step_request_of_decode_ok, fun _ _ => step_request_of_decode_error,
    fun _ => step_cons, step_takeFrame, fun _ => step_readFrameByte, step_takeMask, step_cons, step_cons,
    step_cons, fun _ _ => step_ignores_later_events⟩

/-- Settles O45: every request completes, and each host read stops only by its own guards. -/
theorem onlyHostReadsFault : Obligations.OnlyHostReadsFault := by
  intro s
  cases hs : s.script with
  | nil => exact .inl ⟨s, step_idle hs⟩
  | cons e rest =>
    cases e with
    | request w =>
      obtain ⟨t, ht, -⟩ := performRequest_cases w { s with script := rest }
      exact .inl ⟨t, (step_cons hs).trans ht⟩
    | supplyResponse bytes => exact .inl ⟨_, step_cons hs⟩
    | takeFrame =>
      by_cases h0 : s.fsize = 0#7
      · exact .inr (.inr ⟨_, rest, _, rfl, (step_takeFrame hs).trans (if_pos h0), .inr (.inl ⟨.inl rfl, h0⟩)⟩)
      · exact .inl ⟨_, (step_takeFrame hs).trans (if_neg h0)⟩
    | readFrameByte x =>
      have hstep := step_readFrameByte hs
      by_cases h0 : s.fsize = 0#7
      · rw [if_pos h0] at hstep
        exact .inr (.inr ⟨_, rest, _, rfl, hstep, .inr (.inl ⟨.inr ⟨x, rfl⟩, h0⟩)⟩)
      rw [if_neg h0] at hstep
      by_cases hx : x < 65
      · exact .inl ⟨_, hstep.trans (if_pos hx)⟩
      · exact .inr (.inr ⟨_, rest, _, rfl, hstep.trans (if_neg hx), .inr (.inr ⟨x, by omega, rfl⟩)⟩)
    | takeMask =>
      by_cases hv : s.mvalid = true
      · exact .inl ⟨_, (step_takeMask hs).trans (if_pos hv)⟩
      · exact .inr (.inr ⟨_, rest, _, rfl, (step_takeMask hs).trans (if_neg hv),
          .inl ⟨rfl, Bool.eq_false_of_not_eq_true hv⟩⟩)
    | readStatus => exact .inl ⟨_, step_cons hs⟩
    | reset => exact .inl ⟨_, step_cons hs⟩
    | secondHost => exact .inr (.inl ⟨rest, rfl, step_cons hs⟩)

/-- Settles O4: each request word is one put together from its OP and its ARG, but the one whose RSV is not
zero. -/
theorem writtenOutWordsDecode : Obligations.WrittenOutWordsDecode :=
  ⟨decode_reqWord 0x0#4 0xFFFF#16, decode_reqWord 0x1#4 0x0004#16, decode_reqWord 0x2#4 0xB081#16,
    decode_reqWord 0x3#4 0xABCD#16, decode_reqWord 0x4#4 0x1234#16, decode_reqWord 0x5#4 0x0000#16,
    decode_reqWord 0x4#4 0xFFFF#16, decode_reqWord 0x4#4 0x0000#16, rfl, rfl, rfl,
    decode_reqWord 0x6#4 0x0000#16, decode_req32_of_rsv_ne (by decide), rfl⟩

/-- Settles O8: the step of a request runs the decoded word, also of the word that `withFetchWord` presents. -/
theorem stepRunsTheDecodedRequest : Obligations.StepRunsTheDecodedRequest :=
  ⟨fun _ _ _ _ => step_request_of_decode_ok, fun _ _ _ h =>
    step_request_of_decode_ok (presentRequest_script _ _) (decode_of_decodeTableWord h)⟩

/-- Settles O35, by the "written by" columns of the inventory. -/
theorem requestsOverwriteOnlyTheirResults : Obligations.RequestsOverwriteOnlyTheirResults := exec_keeps

/-- Settles O38, by the guards of the two reads of FRAME. -/
theorem frameReadsNeedABuild : Obligations.FrameReadsNeedABuild := by
  refine fun s rest x => ⟨fun hs h0 => ?_, fun hs h0 => ?_, fun hs hbuilt hx => ?_, fun hs hbuilt => ?_,
    fun hs hbuilt hx => ?_⟩
  · exact (step_takeFrame hs).trans (if_pos h0)
  · exact (step_readFrameByte hs).trans (if_pos h0)
  · rw [step_readFrameByte hs, if_neg hbuilt, if_neg (by omega)]
  · exact ⟨(step_takeFrame hs).trans (if_neg hbuilt), hostTakeFrame_of_built hbuilt⟩
  · refine ⟨?_, hostReadFrameByte_of_built hbuilt hx⟩
    rw [step_readFrameByte hs, if_neg hbuilt, if_pos hx]

/-- Settles O43: with an empty script a step answers the same state. -/
theorem idleBlockStays : Obligations.IdleBlockStays := fun _ => step_idle

/-- Settles O48: FSIZE is 0 and FRAME reads as zeros, and MOUT is 0. -/
theorem invariantHoldsAtReset : Obligations.InvariantHoldsAtReset := inv_reset

end Machine
end Sys2Proof
end
